-- ==== Sys2Proof/Word.lean ====
section
/-! DEFINITION. The instruction word. -/

namespace Sys2Proof

/-- The 16-bit unsigned instruction word, the block's only input (R8 `Word = u16`, R12, R30).
A wider value cannot be presented, because the type has no such value (R12). -/
abbrev Word := BitVec 16

/-- One byte of a rendered text (R94). No instruction word is ever made of bytes (R21). -/
abbrev Byte := BitVec 8

end Sys2Proof
end

