-- ==== Sys2Proof/Syntax.lean ====
section
/-! DEFINITION. The instructions (one constructor per row of spec/opcode_table.json) and the value
types of R8 that cross the block's interface. -/

namespace Sys2Proof

/-- The four operand fields of an operation row (R100 to R115, "Operands"), each at its own width.
They are indices with names and nothing more (R14, R37). -/
structure Operands where
  /-- bits 15:12, a register index -/
  destination : BitVec 4
  /-- bits 11:8, a register index -/
  source : BitVec 4
  /-- bits 7:6 -/
  loadLength : BitVec 2
  /-- bits 5:4 -/
  loadType : BitVec 2
deriving DecidableEq, Repr

/-- The rows of spec/opcode_table.json. An operation row holds every value of its four operand
fields, the illegal ones too: the table gives each row its ordered constraints and the outcome of a
word that breaks one, and that outcome is part of the row's meaning (R45, R100 to R117). -/
inductive Instr where
  /-- `NOP`, the whole-word sentinel 0xFFFF (R116) -/
  | nopSentinel
  /-- `RESERVED_ALL_ZERO`, the word 0x0000 (R117) -/
  | reservedAllZero
  /-- R100 -/
  | sum (o : Operands)
  /-- R101 -/
  | subtract (o : Operands)
  /-- R102 -/
  | multiply (o : Operands)
  /-- R103 -/
  | divide (o : Operands)
  /-- R104 -/
  | and (o : Operands)
  /-- R105 -/
  | or (o : Operands)
  /-- R106 -/
  | nand (o : Operands)
  /-- R107 -/
  | nor (o : Operands)
  /-- R108 -/
  | xor (o : Operands)
  /-- R109 -/
  | shiftLeft (o : Operands)
  /-- R110 -/
  | shiftRight (o : Operands)
  /-- R111 -/
  | rotateRight (o : Operands)
  /-- R112 -/
  | popStack (o : Operands)
  /-- R113 -/
  | pushStack (o : Operands)
  /-- R114 -/
  | softwareInterrupt (o : Operands)
  /-- `nop`, operation 15, an ordinary field-decoded instruction (R115); not the sentinel (C4) -/
  | nop (o : Operands)
deriving DecidableEq, Repr

/-- The five fields of a word (R8, R31). -/
structure Fields where
  operation : BitVec 4
  loadType : BitVec 2
  loadLength : BitVec 2
  source : BitVec 4
  destination : BitVec 4
deriving DecidableEq, Repr

/-- The four rejection reasons, and no fifth (R8, R120, R132). -/
inductive Reason where
  /-- the word is 0x0000 (R121) -/
  | allZeroReserved
  /-- the two register fields are equal (R122) -/
  | sourceEqualsDestination
  /-- operation 15 with load_type 3 (R123) -/
  | noOperationNoLoad
  /-- operation 0 to 14 with load_type 3 (R124) -/
  | operationLoadConflict
deriving DecidableEq, Repr

/-- The ten components of a successful decode (R8, R81): five raw values, five names. -/
structure DecodedInstruction where
  fields : Fields
  opName : String
  loadTypeName : String
  loadLengthName : String
  srcName : String
  dstName : String
deriving DecidableEq, Repr

/-- What `validate` returns (R8, R60). -/
inductive Verdict where
  | nopSentinel
  | invalid (r : Reason)
  | legal (f : Fields)
deriving DecidableEq, Repr

/-- What `decode` returns: three kinds (C1). The sentinel carries nothing (R82) and a rejection
carries its reason and nothing else (R83). -/
inductive Outcome where
  | nopSentinel
  | invalid (r : Reason)
  | decoded (d : DecodedInstruction)
deriving DecidableEq, Repr

end Sys2Proof
end

