-- ==== Sys2Proof/WellFormed.lean ====
section
/-! DEFINITION. Which instructions are legal: the constraints the opcode table gives its rows. -/

namespace Sys2Proof

/-- The two constraints every operation row carries, in their order, with the reason given when one
is broken; `noLoad` is the reason the row gives for load_type 3 (R45, R64 to R66). -/
def Operands.illegality (noLoad : Reason) (o : Operands) : Option Reason :=
  if o.source = o.destination then some .sourceEqualsDestination
  else if o.loadType = 3 then some noLoad
  else none

/-- Why an instruction is not legal, by name: `none` for a legal one. The reserved row is never
legal (R117), the sentinel always is (R116). -/
def Instr.illegality : Instr → Option Reason
  | .nopSentinel => none
  | .reservedAllZero => some .allZeroReserved
  | .sum o => o.illegality .operationLoadConflict
  | .subtract o => o.illegality .operationLoadConflict
  | .multiply o => o.illegality .operationLoadConflict
  | .divide o => o.illegality .operationLoadConflict
  | .and o => o.illegality .operationLoadConflict
  | .or o => o.illegality .operationLoadConflict
  | .nand o => o.illegality .operationLoadConflict
  | .nor o => o.illegality .operationLoadConflict
  | .xor o => o.illegality .operationLoadConflict
  | .shiftLeft o => o.illegality .operationLoadConflict
  | .shiftRight o => o.illegality .operationLoadConflict
  | .rotateRight o => o.illegality .operationLoadConflict
  | .popStack o => o.illegality .operationLoadConflict
  | .pushStack o => o.illegality .operationLoadConflict
  | .softwareInterrupt o => o.illegality .operationLoadConflict
  | .nop o => o.illegality .noOperationNoLoad

/-- A legal instruction: the sentinel, or an operation row whose two constraints hold (R44). -/
abbrev Instr.WellFormed (i : Instr) : Prop := i.illegality = none

end Sys2Proof
end

