-- ==== Sys2Proof/Decode.lean ====
section
/-! DEFINITION. Bits to instructions and back: the bitfield extractor (40_extract.md), the validator
(41_validate.md), the opcode table with its row selection (R45), and the encoder. -/

namespace Sys2Proof

/-- The bitfield extractor, by the mask-and-shift formulas (R50, R51). Total on all words, the two
whole-word special values included (R54). -/
def extract (w : Word) : Fields where
  operation := (w &&& 0x000F).setWidth 4
  loadType := ((w >>> 4) &&& 0x3).setWidth 2
  loadLength := ((w >>> 6) &&& 0x3).setWidth 2
  source := ((w >>> 8) &&& 0xF).setWidth 4
  destination := ((w >>> 12) &&& 0xF).setWidth 4

/-- The word made of five field values (R53). -/
def reconstitute (f : Fields) : Word :=
  (f.destination.setWidth 16 <<< 12) ||| (f.source.setWidth 16 <<< 8) |||
    (f.loadLength.setWidth 16 <<< 6) ||| (f.loadType.setWidth 16 <<< 4) |||
    f.operation.setWidth 16

/-- The in-place masks of the five fields (R31): operation, load_type, load_length, source,
destination. -/
def fieldMasks : List Word := [0x000F, 0x0030, 0x00C0, 0x0F00, 0xF000]

/-- The instruction validator, steps 1 to 7 in their fixed order (R68). -/
def validate (w : Word) : Verdict :=
  if w = 0xFFFF then .nopSentinel
  else if w = 0x0000 then .invalid .allZeroReserved
  else
    let f := extract w
    if f.source = f.destination then .invalid .sourceEqualsDestination
    else if f.operation = 15 ∧ f.loadType = 3 then .invalid .noOperationNoLoad
    else if f.operation ≠ 15 ∧ f.loadType = 3 then .invalid .operationLoadConflict
    else .legal f

/-- Whether a verdict is step 7's: the word decodes to an instruction (R67). -/
def Verdict.isLegal : Verdict → Bool
  | .legal _ => true
  | .nopSentinel | .invalid _ => false

/-- One row of spec/opcode_table.json: the words it may stand for are those that agree with
`pattern` on the bits of `mask`. -/
structure Row where
  mnemonic : String
  pattern : Word
  mask : Word
deriving DecidableEq, Repr

/-- The table's rows in the order in which they are tried (R45, `priority`). -/
def opcodeTable : List Row :=
  [⟨"NOP", 0xFFFF, 0xFFFF⟩, ⟨"RESERVED_ALL_ZERO", 0x0000, 0xFFFF⟩,
   ⟨"sum", 0x0000, 0x000F⟩, ⟨"subtract", 0x0001, 0x000F⟩,
   ⟨"multiply", 0x0002, 0x000F⟩, ⟨"divide", 0x0003, 0x000F⟩,
   ⟨"and", 0x0004, 0x000F⟩, ⟨"or", 0x0005, 0x000F⟩,
   ⟨"nand", 0x0006, 0x000F⟩, ⟨"nor", 0x0007, 0x000F⟩, ⟨"xor", 0x0008, 0x000F⟩] ++
  [⟨"shift-left", 0x0009, 0x000F⟩, ⟨"shift-right", 0x000A, 0x000F⟩,
   ⟨"rotate-right", 0x000B, 0x000F⟩, ⟨"pop-stack", 0x000C, 0x000F⟩,
   ⟨"push-stack", 0x000D, 0x000F⟩, ⟨"software_interrupt", 0x000E, 0x000F⟩,
   ⟨"nop", 0x000F, 0x000F⟩]

/-- The row a word meets first when the table is read from its top (R45). -/
def firstRow (w : Word) : Option Row := opcodeTable.find? fun r => w &&& r.mask == r.pattern

/-- The operation row of each of the sixteen operation values (R33), by direct index. -/
def operationRows : Vector (Operands → Instr) 16 :=
  #v[.sum, .subtract, .multiply, .divide, .and, .or, .nand, .nor, .xor, .shiftLeft, .shiftRight,
    .rotateRight, .popStack, .pushStack, .softwareInterrupt, .nop]

/-- The operation row with operation value `op`. -/
def Instr.ofOperation (op : BitVec 4) (o : Operands) : Instr :=
  (operationRows[op.toNat]'op.isLt) o

/-- The operand fields of a word (R31). -/
def operandsOf (w : Word) : Operands where
  destination := (extract w).destination
  source := (extract w).source
  loadLength := (extract w).loadLength
  loadType := (extract w).loadType

/-- The row a word belongs to, in the priority of R45: the sentinel, the reserved word, then the
operation bits. Total: every word has its row (R33, R69). Whether the row's constraints hold is the
row's own meaning, which rejects by name. -/
def selectRow (w : Word) : Instr :=
  if w = 0xFFFF then .nopSentinel
  else if w = 0x0000 then .reservedAllZero
  else Instr.ofOperation (extract w).operation (operandsOf w)

/-- The five field values of operation `op` with operands `o`. -/
def Operands.withOperation (op : BitVec 4) (o : Operands) : Fields where
  operation := op
  loadType := o.loadType
  loadLength := o.loadLength
  source := o.source
  destination := o.destination

/-- The word of an instruction (R31, R33, R38, R39). -/
def encode : Instr → Word
  | .nopSentinel => 0xFFFF
  | .reservedAllZero => 0x0000
  | .sum o => reconstitute (o.withOperation 0)
  | .subtract o => reconstitute (o.withOperation 1)
  | .multiply o => reconstitute (o.withOperation 2)
  | .divide o => reconstitute (o.withOperation 3)
  | .and o => reconstitute (o.withOperation 4)
  | .or o => reconstitute (o.withOperation 5)
  | .nand o => reconstitute (o.withOperation 6)
  | .nor o => reconstitute (o.withOperation 7)
  | .xor o => reconstitute (o.withOperation 8)
  | .shiftLeft o => reconstitute (o.withOperation 9)
  | .shiftRight o => reconstitute (o.withOperation 10)
  | .rotateRight o => reconstitute (o.withOperation 11)
  | .popStack o => reconstitute (o.withOperation 12)
  | .pushStack o => reconstitute (o.withOperation 13)
  | .softwareInterrupt o => reconstitute (o.withOperation 14)
  | .nop o => reconstitute (o.withOperation 15)

/-- The mnemonic of an instruction's row in spec/opcode_table.json. -/
def Instr.mnemonic : Instr → String
  | .nopSentinel => "NOP"
  | .reservedAllZero => "RESERVED_ALL_ZERO"
  | .sum _ => "sum"
  | .subtract _ => "subtract"
  | .multiply _ => "multiply"
  | .divide _ => "divide"
  | .and _ => "and"
  | .or _ => "or"
  | .nand _ => "nand"
  | .nor _ => "nor"
  | .xor _ => "xor"
  | .shiftLeft _ => "shift-left"
  | .shiftRight _ => "shift-right"
  | .rotateRight _ => "rotate-right"
  | .popStack _ => "pop-stack"
  | .pushStack _ => "push-stack"
  | .softwareInterrupt _ => "software_interrupt"
  | .nop _ => "nop"

/-- The instruction read from a table word of `nbits` bits. The block takes one 16-bit value, not
bytes (R21), so only a value of at most 16 bits can be presented (R12, log entry 11). -/
def decodeTableWord (nbits w : Nat) : Option Instr :=
  if nbits ≤ 16 ∧ w < 2 ^ nbits then some (selectRow (BitVec.ofNat 16 w)) else none

end Sys2Proof
end

