-- ==== Sys2Proof/Config.lean ====
section
/-! DEFINITION. The parameters the spec leaves open (R5), with the spec's defaults. They are fixed
before the first decode and never change (R86, R141). -/

namespace Sys2Proof

/-- The texts of the four rejections. The spec refuses a configuration in which two of them are equal
(R5, R93, U6), so a value of this type carries the proof that they differ. -/
structure Messages where
  allZeroReserved : String
  sourceEqualsDestination : String
  noOperationNoLoad : String
  operationLoadConflict : String
  distinct : [allZeroReserved, sourceEqualsDestination, noOperationNoLoad,
    operationLoadConflict].Nodup
deriving DecidableEq, Repr

/-- Four texts as a configuration's messages; refused when two of them are equal (U6). -/
def Messages.ofTexts (zero same noLoad conflict : String) : Option Messages :=
  if h : [zero, same, noLoad, conflict].Nodup then some ⟨zero, same, noLoad, conflict, h⟩ else none

/-- The default messages (R93). -/
def Messages.default : Messages where
  allZeroReserved := "invalid encoding: the all-zero word is reserved"
  sourceEqualsDestination := "invalid encoding: source and destination are the same register"
  noOperationNoLoad := "invalid encoding: no operation and no load"
  operationLoadConflict := "invalid encoding: operation requires a load type other than none"
  distinct := by decide

/-- `OUTCOME_CODE`: the codes of the outcome kinds on the `outcome` port (R5, R13, D3). -/
structure OutcomeCodes where
  decoded : BitVec 2
  nopSentinel : BitVec 2
  invalid : BitVec 2
deriving DecidableEq, Repr

/-- `REASON_CODE`: the codes of the reasons on the `reason` port (R5, R125, D4). -/
structure ReasonCodes where
  allZeroReserved : BitVec 2
  sourceEqualsDestination : BitVec 2
  noOperationNoLoad : BitVec 2
  operationLoadConflict : BitVec 2
deriving DecidableEq, Repr

/-- The open parameters of R5. -/
structure Config where
  /-- `REG_NAME_12`, the name of the first reserved register slot -/
  regName12 : String
  /-- `REG_NAME_13` -/
  regName13 : String
  /-- `REG_NAME_14` -/
  regName14 : String
  /-- `LEN_NAME_1` -/
  lenName1 : String
  /-- `LEN_NAME_2` -/
  lenName2 : String
  /-- `LEN_NAME_3` -/
  lenName3 : String
  messages : Messages
  outcomeCodes : OutcomeCodes
  reasonCodes : ReasonCodes
  /-- `LATENCY`, which no rule reads (R5, R145, log entry 12) -/
  latency : Nat
deriving DecidableEq, Repr

/-- The default parameter values (R5, R13, R93, R125). -/
def Config.default : Config where
  regName12 := "reserved"
  regName13 := "reserved"
  regName14 := "reserved"
  lenName1 := "2 bytes"
  lenName2 := "4 bytes"
  lenName3 := "8 bytes"
  messages := .default
  outcomeCodes := ⟨0, 1, 2⟩
  reasonCodes := ⟨0, 1, 2, 3⟩
  latency := 0

end Sys2Proof
end

