-- ==== Sys2Proof/Machine/State.lean ====
section
/-! DEFINITION. The values at the block's interface, the (absent) faults, and the state at reset.

The block stores nothing (R10) and its outputs are not registered (R19): they are functions of the
word on the input port at all times (R18, R145) and stand in Machine/Ops.lean as such functions. A
step is one use of the block, one word in and one outcome out (R147), and what the consumer took from
that use is the consumer's own (R19; log entry 1). -/

namespace Sys2Proof.Machine

/-- The faults: none. The block never faults, since a rejection is a value of its result (R128,
R148). The type has no constructor, so nothing raises it, and a fault is impossible by type. -/
inductive Fault
deriving DecidableEq, Repr

/-- The refusals. The block refuses no word (R148). -/
inductive Refusal where
  /-- An instruction that `exec` gives no meaning yet. Raised by no arm of this model: every row has
  its meaning. Safe: it would stop where the block goes on. -/
  | notModelled (mnemonic : String)
deriving DecidableEq, Repr

/-- What a consumer gets from one use of the block: the outcome and, since it asks for it, the
rendered line (R10, R148; log entry 8). -/
structure Answer where
  outcome : Outcome
  text : String
deriving DecidableEq, Repr

/-- The block, its constants, its input port and its consumer. No output of the block is a field:
see `State.outcome`, `State.text` and `State.ports`. -/
structure State where
  /-- the block's own state: the unit type (R10) -/
  block : Unit
  /-- the constants of the build, the open parameters, written by no step (R5, R11, R86) -/
  config : Config
  /-- the input port: the word the caller presents (R12) -/
  word : Word
  /-- the consumer's copy of the answer to its use of the presented word, if it has made one; kept by
  the consumer and read by no rule of the block (R19, R147) -/
  answer : Option Answer
deriving DecidableEq, Repr

/-- Reset. The block has nothing to reset (R18, R140): the parameters hold their defaults and nobody
has used the block. That the word on the input port is 0x0000 is the model's choice (DESIGN CHOICE,
log entry 2). -/
def State.reset : State where
  block := ()
  config := .default
  word := 0x0000
  answer := none

end Sys2Proof.Machine
end

