-- ==== Sys2Proof/Machine/Operands.lean ====
section
/-! DEFINITION. The operand forms: the four constant name tables, direct index lookup into them, and
the operand width a load_length names. -/

namespace Sys2Proof.Machine

/-- `OP_NAME` (R76). -/
def opNames : Vector String 16 :=
  #v["sum", "subtract", "multiply", "divide", "and", "or", "nand", "nor", "xor", "shift-left",
    "shift-right", "rotate-right", "pop-stack", "push-stack", "software interrupt", "nop"]

/-- `REG_NAME`, used for the source and the destination field (R77). -/
def regNames (c : Config) : Vector String 16 :=
  #v["a", "x", "y", "b", "w", "z", "c", "d", "pc", "sb", "sp", "fl",
    c.regName12, c.regName13, c.regName14, "none"]

/-- `LT_NAME` (R78). -/
def loadTypeNames : Vector String 4 := #v["register", "ram", "immediate", "none"]

/-- `LEN_NAME` (R79). -/
def loadLengthNames (c : Config) : Vector String 4 :=
  #v["1 byte", c.lenName1, c.lenName2, c.lenName3]

/-- Direct index lookup of an operation's name; the width of the index keeps it in range (R80). -/
def opName (i : BitVec 4) : String := opNames[i.toNat]'i.isLt

/-- Direct index lookup of a register's name (R80). A reserved slot is looked up like any other
(R42). -/
def regName (c : Config) (i : BitVec 4) : String := (regNames c)[i.toNat]'i.isLt

/-- Direct index lookup of a load type's name (R80). -/
def loadTypeName (i : BitVec 2) : String := loadTypeNames[i.toNat]'i.isLt

/-- Direct index lookup of a load length's name (R80). -/
def loadLengthName (c : Config) (i : BitVec 2) : String := (loadLengthNames c)[i.toNat]'i.isLt

/-- The operand width in bytes that a load_length value names (R35). -/
def loadLengthBytes (i : BitVec 2) : Nat := 2 ^ i.toNat

/-- Resolution of all five fields through their name tables (R80). Total on all field values. -/
def resolve (c : Config) (f : Fields) : DecodedInstruction where
  fields := f
  opName := opName f.operation
  loadTypeName := loadTypeName f.loadType
  loadLengthName := loadLengthName c f.loadLength
  srcName := regName c f.source
  dstName := regName c f.destination

/-- The instruction decoder, in the spec's own words: the validator followed by resolution (R75). -/
def decode (c : Config) (w : Word) : Outcome :=
  match validate w with
  | .nopSentinel => .nopSentinel
  | .invalid r => .invalid r
  | .legal f => .decoded (resolve c f)

end Sys2Proof.Machine
end

