-- ==== Sys2Proof/Machine/Render.lean ====
section
/-! DEFINITION. The mnemonic renderer (43_render.md) and the byte view of its text. -/

namespace Sys2Proof.Machine

/-- `MSG`, the text of each rejection (R93). -/
def message (m : Messages) : Reason → String
  | .allZeroReserved => m.allZeroReserved
  | .sourceEqualsDestination => m.sourceEqualsDestination
  | .noOperationNoLoad => m.noOperationNoLoad
  | .operationLoadConflict => m.operationLoadConflict

/-- The line of a decoded instruction: nine pieces, source before destination (R91). It reads the
names in the record and checks nothing (R96). -/
def renderDecoded (d : DecodedInstruction) : String :=
  d.opName ++ " " ++ d.loadTypeName ++ " " ++ d.loadLengthName ++ " wide with src: " ++ d.srcName ++
    " into " ++ d.dstName

/-- The renderer: a function of the outcome alone (R90). Of the parameters it uses the four message
texts. -/
def render (c : Config) : Outcome → String
  | .decoded d => renderDecoded d
  | .nopSentinel => "NOP"
  | .invalid r => message c.messages r

/-- A printable ASCII character (R94). -/
def printableChar (ch : Char) : Bool := 0x20 ≤ ch.toNat && ch.toNat ≤ 0x7E

/-- A string of printable ASCII characters (R94). -/
def printable (s : String) : Bool := s.toList.all printableChar

/-- The bytes of a text: one byte a character, first character first, no terminator (R94). The
character codes are ASCII (PRESUMED from general knowledge, G1, log entry 10). -/
def textBytes (s : String) : List Byte := s.toList.map fun ch => BitVec.ofNat 8 ch.toNat

end Sys2Proof.Machine
end

