-- ==== Sys2Proof/Machine/Ops.lean ====
section
/-! DEFINITION. The outputs as functions of the input, and the shared operations: what the caller does,
and what a use of the block gives its consumer, taking a rejection among it. There is no trap entry
and no return (R128, R129): a rejection is a value, and nothing is saved. -/

namespace Sys2Proof.Machine

/-- The outcome the block drives: a function of the word on the input port, at all times (R13, R18,
R145). -/
def State.outcome (s : State) : Outcome := decode s.config s.word

/-- The `text` port: the line of the driven outcome, at all times (R13). -/
def State.text (s : State) : String := render s.config s.outcome

/-- The raw extractor outputs: a separate function of the word, meaningful for every word (R13,
R54). -/
def State.rawFields (s : State) : Fields := extract s.word

/-- The caller puts a word on the input port (R148). With the word the outputs change at once, being
functions of it (R19, R145). A new use begins: the consumer's answer is emptied, which is the model's
choice (DESIGN CHOICE, log entry 7; R19 leaves what a consumer keeps to the consumer). -/
def State.present (s : State) (w : Word) : State := { s with word := w, answer := none }

/-- A use is complete: the consumer gets an outcome and its line (R147). Nothing else changes (R85,
R86). -/
def State.deliver (s : State) (o : Outcome) : State :=
  { s with answer := some { outcome := o, text := render s.config o } }

/-- A rejection: the consumer gets `Invalid(reason)`. It is no transfer of control, and it records
the reason and nothing more (R128, R133). -/
def reject (r : Reason) (s : State) : Host.Outcome State Fault Refusal :=
  .next (s.deliver (.invalid r))

/-- A successful decode: the consumer gets the five values and their five names (R80). -/
def accept (f : Fields) (s : State) : Host.Outcome State Fault Refusal :=
  .next (s.deliver (.decoded (resolve s.config f)))

/-- The whole-word sentinel: nothing is extracted and nothing rejected (R82, R116). -/
def acceptSentinel (s : State) : Host.Outcome State Fault Refusal :=
  .next (s.deliver .nopSentinel)

/-- An operation row: its two constraints in their order, then the decode (R45, R100 to R115).
`noLoad` is the reason the row gives for load_type 3. -/
def runRow (op : BitVec 4) (noLoad : Reason) (o : Operands) (s : State) :
    Host.Outcome State Fault Refusal :=
  if o.source = o.destination then reject .sourceEqualsDestination s
  else if o.loadType = 3 then reject noLoad s
  else accept (o.withOperation op) s

end Sys2Proof.Machine
end

