-- ==== Sys2Proof/Machine/Arithmetic.lean ====
section
/-! DEFINITION. The operations 0 to 3.
What the decoder produces for each; what a CPU would compute is in no rule (R118). -/

namespace Sys2Proof.Machine

/-- `sum`, operation value 0 (R100). -/
def execSum (o : Operands) (s : State) : Host.Outcome State Fault Refusal :=
  runRow 0 .operationLoadConflict o s

/-- `subtract`, operation value 1 (R101). -/
def execSubtract (o : Operands) (s : State) : Host.Outcome State Fault Refusal :=
  runRow 1 .operationLoadConflict o s

/-- `multiply`, operation value 2 (R102). -/
def execMultiply (o : Operands) (s : State) : Host.Outcome State Fault Refusal :=
  runRow 2 .operationLoadConflict o s

/-- `divide`, operation value 3 (R103). -/
def execDivide (o : Operands) (s : State) : Host.Outcome State Fault Refusal :=
  runRow 3 .operationLoadConflict o s

end Sys2Proof.Machine
end

