-- ==== Sys2Proof/Machine/Control.lean ====
section
/-! DEFINITION. The operations 14 and 15.
What the decoder produces for each; what a CPU would compute is in no rule (R118). -/

namespace Sys2Proof.Machine

/-- `software interrupt`, operation value 14 (R114). -/
def execSoftwareInterrupt (o : Operands) (s : State) : Host.Outcome State Fault Refusal :=
  runRow 14 .operationLoadConflict o s

/-- `nop`, operation value 15 (R115). -/
def execNop (o : Operands) (s : State) : Host.Outcome State Fault Refusal :=
  runRow 15 .noOperationNoLoad o s

end Sys2Proof.Machine
end

