-- ==== Sys2Proof/Machine/Logic.lean ====
section
/-! DEFINITION. The operations 4 to 8.
What the decoder produces for each; what a CPU would compute is in no rule (R118). -/

namespace Sys2Proof.Machine

/-- `and`, operation value 4 (R104). -/
def execAnd (o : Operands) (s : State) : Host.Outcome State Fault Refusal :=
  runRow 4 .operationLoadConflict o s

/-- `or`, operation value 5 (R105). -/
def execOr (o : Operands) (s : State) : Host.Outcome State Fault Refusal :=
  runRow 5 .operationLoadConflict o s

/-- `nand`, operation value 6 (R106). -/
def execNand (o : Operands) (s : State) : Host.Outcome State Fault Refusal :=
  runRow 6 .operationLoadConflict o s

/-- `nor`, operation value 7 (R107). -/
def execNor (o : Operands) (s : State) : Host.Outcome State Fault Refusal :=
  runRow 7 .operationLoadConflict o s

/-- `xor`, operation value 8 (R108). -/
def execXor (o : Operands) (s : State) : Host.Outcome State Fault Refusal :=
  runRow 8 .operationLoadConflict o s

end Sys2Proof.Machine
end

