-- ==== Sys2Proof/Machine/Shift.lean ====
section
/-! DEFINITION. The operations 9 to 11.
What the decoder produces for each; what a CPU would compute is in no rule (R118). -/

namespace Sys2Proof.Machine

/-- `shift-left`, operation value 9 (R109). -/
def execShiftLeft (o : Operands) (s : State) : Host.Outcome State Fault Refusal :=
  runRow 9 .operationLoadConflict o s

/-- `shift-right`, operation value 10 (R110). -/
def execShiftRight (o : Operands) (s : State) : Host.Outcome State Fault Refusal :=
  runRow 10 .operationLoadConflict o s

/-- `rotate-right`, operation value 11 (R111). -/
def execRotateRight (o : Operands) (s : State) : Host.Outcome State Fault Refusal :=
  runRow 11 .operationLoadConflict o s

end Sys2Proof.Machine
end

