-- ==== Sys2Proof/Machine/Stack.lean ====
section
/-! DEFINITION. The operations 12 and 13.
What the decoder produces for each; what a CPU would compute is in no rule (R118). -/

namespace Sys2Proof.Machine

/-- `pop-stack`, operation value 12 (R112). -/
def execPopStack (o : Operands) (s : State) : Host.Outcome State Fault Refusal :=
  runRow 12 .operationLoadConflict o s

/-- `push-stack`, operation value 13 (R113). -/
def execPushStack (o : Operands) (s : State) : Host.Outcome State Fault Refusal :=
  runRow 13 .operationLoadConflict o s

end Sys2Proof.Machine
end

