-- ==== Sys2Proof/Machine/WholeWord.lean ====
section
/-! DEFINITION. The two whole-word rows: the NOP sentinel and the reserved all-zero word. -/

namespace Sys2Proof.Machine

/-- `NOP`, the word 0xFFFF: accepted as a whole word, neither field check applied (R116). -/
def execNopSentinel (s : State) : Host.Outcome State Fault Refusal := acceptSentinel s

/-- `RESERVED_ALL_ZERO`, the word 0x0000: always `Invalid(AllZeroReserved)` (R117). -/
def execReservedAllZero (s : State) : Host.Outcome State Fault Refusal :=
  reject .allZeroReserved s

end Sys2Proof.Machine
end

