-- ==== Sys2Proof/Machine/Dispatch.lean ====
section
/-! DEFINITION. The meaning of each row of the opcode table. -/

namespace Sys2Proof.Machine

def exec (i : Instr) (s : State) : Host.Outcome State Fault Refusal :=
  match i with
  | .nopSentinel => Sys2Proof.Machine.execNopSentinel s
  | .reservedAllZero => Sys2Proof.Machine.execReservedAllZero s
  | .sum o => Sys2Proof.Machine.execSum o s
  | .subtract o => Sys2Proof.Machine.execSubtract o s
  | .multiply o => Sys2Proof.Machine.execMultiply o s
  | .divide o => Sys2Proof.Machine.execDivide o s
  | .and o => Sys2Proof.Machine.execAnd o s
  | .or o => Sys2Proof.Machine.execOr o s
  | .nand o => Sys2Proof.Machine.execNand o s
  | .nor o => Sys2Proof.Machine.execNor o s
  | .xor o => Sys2Proof.Machine.execXor o s
  | .shiftLeft o => Sys2Proof.Machine.execShiftLeft o s
  | .shiftRight o => Sys2Proof.Machine.execShiftRight o s
  | .rotateRight o => Sys2Proof.Machine.execRotateRight o s
  | .popStack o => Sys2Proof.Machine.execPopStack o s
  | .pushStack o => Sys2Proof.Machine.execPushStack o s
  | .softwareInterrupt o => Sys2Proof.Machine.execSoftwareInterrupt o s
  | .nop o => Sys2Proof.Machine.execNop o s

end Sys2Proof.Machine
end

