-- ==== Sys2Proof/Machine/Step.lean ====
section
/-! DEFINITION. One step: one application of the block to the word on its input port (R10, R147). -/

namespace Sys2Proof.Machine

/-- One use of the block: the consumer gets, for the presented word, the answer that is the meaning of
that word's row. There is no program counter to advance (R15): the word stays on the port until the
caller presents another. -/
def step (s : State) : Host.Outcome State Fault Refusal := exec (selectRow s.word) s

/-- The state in which the caller presents the table word `w` of `nbits` bits (log entry 7). -/
def State.withFetchWord (s : State) (nbits w : Nat) : State :=
  s.present (BitVec.ofNat 16 (w % 2 ^ nbits))

end Sys2Proof.Machine
end

