-- ==== Sys2Proof/Machine/Caller.lean ====
section
/-! DEFINITION. Uses of the block by its callers: words presented one after another (R147), and
several callers using copies of the block in any interleaving (R144). The caller keeps what the block
answered; the block keeps nothing (R19). -/

namespace Sys2Proof.Machine

/-- Present each word in turn and use the block once on it; what the caller got, one answer a word. -/
def runWords : List Word → State → List (Option Answer)
  | [], _ => []
  | w :: ws, s =>
    match step (s.present w) with
    | .next t => t.answer :: runWords ws t
    | .fault _ => []
    | .refused _ => []

/-- One use of a block: who uses it, which of the copies of the block, and the word presented. -/
structure Use where
  caller : Nat
  copy : Nat
  word : Word
deriving DecidableEq, Repr

/-- Several callers use copies of the block in some interleaving (R144): the copy named by a use is
stepped on the use's word, and the answer goes back to the use's caller. A use of a copy that is not
there is no use. -/
def runUses : List Use → List State → List (Nat × Option Answer)
  | [], _ => []
  | u :: us, blocks =>
    match blocks[u.copy]? with
    | none => runUses us blocks
    | some s =>
      match step (s.present u.word) with
      | .next t => (u.caller, t.answer) :: runUses us (blocks.set u.copy t)
      | .fault _ => []
      | .refused _ => []

end Sys2Proof.Machine
end

