-- ==== Sys2Proof/Machine/Flags.lean ====
section
/-! DEFINITION. The block has no flags (R16). What it computes in their place are the validator's
conditions: here all of them at once, as wires, with the priority encoder that hardware needs to get
the sequential validator's answer (R126, R127). -/

namespace Sys2Proof.Machine

/-- The raw conditions of the validator's steps, each read from the word alone (R127). -/
structure Conditions where
  /-- step 1 -/
  isSentinel : Bool
  /-- step 2 -/
  isAllZero : Bool
  /-- step 4 -/
  registersEqual : Bool
  /-- step 5 -/
  nopWithoutLoad : Bool
  /-- step 6 -/
  operationWithoutLoad : Bool
deriving DecidableEq, Repr

/-- All conditions of a word, evaluated side by side; they overlap (R126). -/
def rawConditions (w : Word) : Conditions :=
  let f := extract w
  { isSentinel := w == 0xFFFF
    isAllZero := w == 0x0000
    registersEqual := f.source == f.destination
    nopWithoutLoad := f.operation == 15 && f.loadType == 3
    operationWithoutLoad := f.operation != 15 && f.loadType == 3 }

/-- The priority encoder, in the order of R126. -/
def priorityEncode (c : Conditions) (f : Fields) : Verdict :=
  bif c.isSentinel then .nopSentinel
  else bif c.isAllZero then .invalid .allZeroReserved
  else bif c.registersEqual then .invalid .sourceEqualsDestination
  else bif c.nopWithoutLoad then .invalid .noOperationNoLoad
  else bif c.operationWithoutLoad then .invalid .operationLoadConflict
  else .legal f

/-- The validator as parallel hardware (R127). -/
def validateInParallel (w : Word) : Verdict := priorityEncode (rawConditions w) (extract w)

end Sys2Proof.Machine
end

