-- ==== Sys2Proof/Machine/Ports.lean ====
section
/-! DEFINITION. The outcome as wires (R13): a view of the driven values, a function of the word on the
input port, stored nowhere. -/

namespace Sys2Proof.Machine

/-- The output ports (R13). -/
structure Ports where
  outcome : BitVec 2
  reason : BitVec 2
  operation : BitVec 4
  loadType : BitVec 2
  loadLength : BitVec 2
  source : BitVec 4
  destination : BitVec 4
  opName : String
  loadTypeName : String
  loadLengthName : String
  srcName : String
  dstName : String
  text : String
deriving DecidableEq, Repr

/-- The code of a reason on the `reason` port (R125). -/
def reasonCode (c : ReasonCodes) : Reason → BitVec 2
  | .allZeroReserved => c.allZeroReserved
  | .sourceEqualsDestination => c.sourceEqualsDestination
  | .noOperationNoLoad => c.noOperationNoLoad
  | .operationLoadConflict => c.operationLoadConflict

/-- The wires of an outcome with the rendered line `text`. A wire that is not meaningful for the
outcome carries any value (R13, U7): it keeps what it has in `undriven`, which is free, so a
statement about the wires holds for every `undriven` (log entry 9). -/
def drivePorts (c : Config) (text : String) (undriven : Ports) : Outcome → Ports
  | .nopSentinel => { undriven with outcome := c.outcomeCodes.nopSentinel, text := text }
  | .invalid r =>
    { undriven with
      outcome := c.outcomeCodes.invalid, reason := reasonCode c.reasonCodes r, text := text }
  | .decoded d =>
    { undriven with
      outcome := c.outcomeCodes.decoded
      operation := d.fields.operation
      loadType := d.fields.loadType
      loadLength := d.fields.loadLength
      source := d.fields.source
      destination := d.fields.destination
      opName := d.opName
      loadTypeName := d.loadTypeName
      loadLengthName := d.loadLengthName
      srcName := d.srcName
      dstName := d.dstName
      text := text }

/-- The wires in a state: combinational, from the word on the input port (R145). -/
def State.ports (s : State) (undriven : Ports) : Ports :=
  drivePorts s.config s.text undriven s.outcome

end Sys2Proof.Machine
end

