-- ==== Sys2Proof/Safety.lean ====
section
/-! DEFINITION. What a safe use of the block is, in the terms the statements use. -/

namespace Sys2Proof.Machine

/-- The block answers: a step gives a next state, neither a fault nor a refusal (R148). -/
def Answers (s : State) : Prop := ∃ t, step s = .next t

/-- An answer the consumer holds is what the block drives for the word that is on the port now, and
none to an earlier word. Presenting keeps this by the model's choice (DESIGN CHOICE, log entry 7). -/
def AnswerIsCurrent (s : State) : Prop := ∀ a, s.answer = some a → a = ⟨s.outcome, s.text⟩

end Sys2Proof.Machine
end

