-- ==== Sys2Proof/Certificates/Slice0/Obligations.lean ====
section
/-! DEFINITION. The statements for the provers. `word[hi:lo]` of R6 is written
`w.extractLsb' lo (hi - lo + 1)`, Lean's own slice, so that no statement leans on `extract`. -/

open Sys2Proof Sys2Proof.Machine

/-! ## Words the statements share -/

namespace Sys2Proof.Machine

/-- `mk` is the operation row with value `op` and name `name`: on every legal operand it answers with
the decoded record and its line, and changes nothing else (R100 to R115, "Pseudocode"). -/
def DecodesAs (mk : Operands → Instr) (op : BitVec 4) (name : String) : Prop :=
  ∀ (o : Operands) (s : State), o.source ≠ o.destination → o.loadType ≠ 3 →
    exec (mk o) s = .next { s with
      answer := some
        { outcome := .decoded
            { fields :=
                { operation := op, loadType := o.loadType, loadLength := o.loadLength
                  source := o.source, destination := o.destination }
              opName := name
              loadTypeName := loadTypeName o.loadType
              loadLengthName := loadLengthName s.config o.loadLength
              srcName := regName s.config o.source
              dstName := regName s.config o.destination }
          text := name ++ " " ++ loadTypeName o.loadType ++ " " ++
            loadLengthName s.config o.loadLength ++ " wide with src: " ++
            regName s.config o.source ++ " into " ++ regName s.config o.destination } }

/-- On every operand for which `broken` holds, `mk` answers with the rejection `r` and its message,
and changes nothing else. -/
def RejectsWhen (mk : Operands → Instr) (broken : Operands → Prop) (r : Reason) : Prop :=
  ∀ (o : Operands) (s : State), broken o →
    exec (mk o) s = .next { s with
      answer := some { outcome := .invalid r, text := message s.config.messages r } }

/-- The number of words, of all 65536, whose verdict satisfies `p`. -/
def countWords (p : Verdict → Bool) : Nat :=
  (Finset.univ.filter fun w : Word => p (validate w) = true).card

/-- The number of words with operation bits `op` whose verdict satisfies `p`. -/
def countOperationWords (op : BitVec 4) (p : Verdict → Bool) : Nat :=
  (Finset.univ.filter fun w : Word => w.extractLsb' 0 4 = op ∧ p (validate w) = true).card

end Sys2Proof.Machine

/-! ## Extraction and encoding -/

/-- R51: the five fields are the mask-and-shift formulas, in both printed forms, and narrowing drops
only zero bits. -/
def Obligations.FieldsAreMaskAndShift : Prop :=
  ∀ w : Word,
    (extract w).operation.setWidth 16 = w &&& 0x000F ∧
    (extract w).operation.setWidth 16 = (w >>> 0) &&& 0xF ∧
    (extract w).loadType.setWidth 16 = (w >>> 4) &&& 0x3 ∧
    (extract w).loadType.setWidth 16 = (w &&& 0x0030) >>> 4 ∧
    (extract w).loadLength.setWidth 16 = (w >>> 6) &&& 0x3 ∧
    (extract w).loadLength.setWidth 16 = (w &&& 0x00C0) >>> 6 ∧
    (extract w).source.setWidth 16 = (w >>> 8) &&& 0xF ∧
    (extract w).source.setWidth 16 = (w &&& 0x0F00) >>> 8 ∧
    (extract w).destination.setWidth 16 = (w >>> 12) &&& 0xF ∧
    (extract w).destination.setWidth 16 = w >>> 12

/-- R50 with R6: each field is the slice of the word at its bit range (R31), for every word, the two
whole-word special values included; the corner cases and the example of R50. -/
def Obligations.FieldsAreTheirBitRanges : Prop :=
  (∀ w : Word, extract w =
    { operation := w.extractLsb' 0 4, loadType := w.extractLsb' 4 2
      loadLength := w.extractLsb' 6 2, source := w.extractLsb' 8 4
      destination := w.extractLsb' 12 4 }) ∧
  extract 0x0000 = { operation := 0, loadType := 0, loadLength := 0, source := 0, destination := 0 } ∧
  extract 0xFFFF =
    { operation := 15, loadType := 3, loadLength := 3, source := 15, destination := 15 } ∧
  extract 0x1023 = { operation := 3, loadType := 2, loadLength := 0, source := 0, destination := 1 }

/-- R52: a field depends on its own bits and on no other. -/
def Obligations.FieldsAreIndependent : Prop :=
  ∀ w v : Word,
    (w &&& 0x000F = v &&& 0x000F → (extract w).operation = (extract v).operation) ∧
    (w &&& 0x0030 = v &&& 0x0030 → (extract w).loadType = (extract v).loadType) ∧
    (w &&& 0x00C0 = v &&& 0x00C0 → (extract w).loadLength = (extract v).loadLength) ∧
    (w &&& 0x0F00 = v &&& 0x0F00 → (extract w).source = (extract v).source) ∧
    (w &&& 0xF000 = v &&& 0xF000 → (extract w).destination = (extract v).destination)

/-- R53: `reconstitute` by its formula, both round trips, the bijection, and the rule's example. -/
def Obligations.ReconstitutionIsExact : Prop :=
  (∀ f : Fields, reconstitute f =
    (f.destination.zeroExtend 16 <<< 12) ||| (f.source.zeroExtend 16 <<< 8) |||
      (f.loadLength.zeroExtend 16 <<< 6) ||| (f.loadType.zeroExtend 16 <<< 4) |||
      f.operation.zeroExtend 16) ∧
  (∀ w : Word, reconstitute (extract w) = w) ∧
  (∀ f : Fields, extract (reconstitute f) = f) ∧
  Function.Bijective extract ∧
  reconstitute { operation := 3, loadType := 2, loadLength := 0, source := 0, destination := 1 } =
    0x1023

/-- R32: the in-place masks of R31 are pairwise disjoint and cover the word, two different words
differ in some field, and the fields rebuild the word. -/
def Obligations.FieldMasksPartitionTheWord : Prop :=
  fieldMasks = [0x000F, 0x0030, 0x00C0, 0x0F00, 0xF000] ∧
  fieldMasks.Pairwise (fun m n => m &&& n = 0) ∧
  fieldMasks.foldl (fun m n => m ||| n) 0 = 0xFFFF ∧
  (∀ w v : Word, w ≠ v →
    (extract w).operation ≠ (extract v).operation ∨ (extract w).loadType ≠ (extract v).loadType ∨
    (extract w).loadLength ≠ (extract v).loadLength ∨ (extract w).source ≠ (extract v).source ∨
    (extract w).destination ≠ (extract v).destination) ∧
  (∀ w : Word, reconstitute (extract w) = w)

/-- Decode and encode agree: every legal instruction, the reserved row, and every operation row whose
word is not one of the two whole-word values comes back from its own word, with every operand. -/
def Obligations.SelectRowInvertsEncode : Prop :=
  (∀ i : Instr, i.WellFormed → selectRow (encode i) = i) ∧
  selectRow (encode .reservedAllZero) = .reservedAllZero ∧
  (∀ i : Instr, encode i ≠ 0xFFFF → encode i ≠ 0x0000 → selectRow (encode i) = i)

/-- The other direction: no bit of any word is dropped by selecting its row. -/
def Obligations.EncodeInvertsSelectRow : Prop :=
  ∀ w : Word, encode (selectRow w) = w

/-- The table read from its top gives the row that `selectRow` gives, for every word, and no word
matches two operation rows (the table part of R45). -/
def Obligations.SelectRowFollowsTablePriority : Prop :=
  (∀ w : Word, ∃ r, firstRow w = some r ∧ r.mnemonic = (selectRow w).mnemonic) ∧
  (∀ r ∈ opcodeTable, ∀ r' ∈ opcodeTable, r.mask = 0x000F → r'.mask = 0x000F →
    ∀ w : Word, w &&& r.mask = r.pattern → w &&& r'.mask = r'.pattern → r = r')

/-- Words written out from the encoding tables (R31, R33, R38, R39) and the rules' own examples. -/
def Obligations.SpecWordsSelectTheirRows : Prop :=
  selectRow 0b1111111111111111 = .nopSentinel ∧
  selectRow 0b0000000000000000 = .reservedAllZero ∧
  selectRow 0b0001000000100011 = .divide ⟨1, 0, 0, 2⟩ ∧
  selectRow 0b0100010110000110 = .nand ⟨4, 5, 2, 0⟩ ∧
  selectRow 0b0011000100001011 = .rotateRight ⟨3, 1, 0, 0⟩ ∧
  selectRow 0b1111000001001101 = .pushStack ⟨15, 0, 1, 0⟩ ∧
  selectRow 0b1110111100101110 = .softwareInterrupt ⟨14, 15, 0, 2⟩ ∧
  selectRow 0b0010100111011111 = .nop ⟨2, 9, 3, 1⟩

/-- The per-row constraints of the opcode table reject exactly the words the validator rejects, and
for the same reason. -/
def Obligations.RowConstraintsAreTheValidator : Prop :=
  ∀ w : Word, (selectRow w).illegality =
    match validate w with
    | .invalid r => some r
    | .nopSentinel => none
    | .legal _ => none

/-! ## The validator -/

/-- R70. -/
def Obligations.SentinelIsExclusive : Prop :=
  ∀ (c : Config) (w : Word),
    (decode c w = .nopSentinel ↔ w = 0xFFFF) ∧ (validate w = .nopSentinel ↔ w = 0xFFFF)

/-- R71. -/
def Obligations.AllZeroReasonIsExclusive : Prop :=
  ∀ (c : Config) (w : Word),
    (decode c w = .invalid .allZeroReserved ↔ w = 0x0000) ∧
    (validate w = .invalid .allZeroReserved ↔ w = 0x0000)

/-- R72. -/
def Obligations.EqualRegisterFieldsRejected : Prop :=
  ∀ (c : Config) (w : Word),
    decode c w = .invalid .sourceEqualsDestination ↔
      (w.extractLsb' 8 4 = w.extractLsb' 12 4 ∧ w ≠ 0x0000 ∧ w ≠ 0xFFFF)

/-- R73, with its converse. -/
def Obligations.LoadTypeThreeRejected : Prop :=
  ∀ (c : Config) (w : Word),
    (w.extractLsb' 4 2 = 3 → decode c w =
      if w = 0xFFFF then .nopSentinel
      else if w.extractLsb' 8 4 = w.extractLsb' 12 4 then .invalid .sourceEqualsDestination
      else if w.extractLsb' 0 4 = 15 then .invalid .noOperationNoLoad
      else .invalid .operationLoadConflict) ∧
    (w.extractLsb' 4 2 ≠ 3 →
      decode c w ≠ .invalid .noOperationNoLoad ∧ decode c w ≠ .invalid .operationLoadConflict)

/-- R44: the legal set in closed form, and its size. -/
def Obligations.LegalSetClosedForm : Prop :=
  (∀ (c : Config) (w : Word), (∃ d, decode c w = .decoded d) ↔
    (w.extractLsb' 8 4 ≠ w.extractLsb' 12 4 ∧ w.extractLsb' 4 2 ≠ 3)) ∧
  countWords Verdict.isLegal = 46080

/-- R74: the sizes of the six classes, and that they are all the words. -/
def Obligations.ClassSizes : Prop :=
  countWords (· == .nopSentinel) = 1 ∧
  countWords (· == .invalid .allZeroReserved) = 1 ∧
  countWords (· == .invalid .sourceEqualsDestination) = 4094 ∧
  countWords (· == .invalid .noOperationNoLoad) = 960 ∧
  countWords (· == .invalid .operationLoadConflict) = 14400 ∧
  countWords Verdict.isLegal = 46080 ∧
  1 + 1 + 4094 + 960 + 14400 + 46080 = 65536

/-- The corner-case counts of R100 to R115: of the 4096 words of each operation, how many decode, how
many have load_type 3 and different registers (the reason being the row's), and how many of the 256
with equal registers are reported as such. -/
def Obligations.OperationShares : Prop :=
  ∀ op : BitVec 4,
    countOperationWords op Verdict.isLegal = 2880 ∧
    countOperationWords op (· == .invalid .noOperationNoLoad) = (if op = 15 then 960 else 0) ∧
    countOperationWords op (· == .invalid .operationLoadConflict) = (if op = 15 then 0 else 960) ∧
    countOperationWords op (· == .invalid .sourceEqualsDestination) =
      (if op = 0 ∨ op = 15 then 255 else 256)

/-- R126 and R127: the conditions evaluated side by side overlap on the words R126 names, steps 5 and
6 never both, and the priority encoder gives the sequential answer for every word. -/
def Obligations.ParallelValidatorAgrees : Prop :=
  (∀ w : Word, validateInParallel w = validate w) ∧
  (∀ w : Word,
    ¬ ((rawConditions w).nopWithoutLoad = true ∧ (rawConditions w).operationWithoutLoad = true)) ∧
  ((rawConditions 0xFFFF).registersEqual = true ∧ (rawConditions 0xFFFF).nopWithoutLoad = true ∧
    validate 0xFFFF = .nopSentinel) ∧
  ((rawConditions 0x0000).registersEqual = true ∧
    validate 0x0000 = .invalid .allZeroReserved) ∧
  (∀ w : Word, (rawConditions w).registersEqual = true → w.extractLsb' 4 2 = 3 →
    ((rawConditions w).nopWithoutLoad = true ∨ (rawConditions w).operationWithoutLoad = true) ∧
    (w ≠ 0xFFFF → validate w = .invalid .sourceEqualsDestination)) ∧
  (∀ w : Word, (rawConditions w).isSentinel = true →
    validate w = .nopSentinel)

/-! ## Resolution and names -/

/-- The decoder on the words of the sixteen operation rows, written with the word's own bits: the
rejections in their order, else the record of R80 (44_operations.md, section 1). -/
def Obligations.OperationWordsDecode : Prop :=
  ∀ (c : Config) (w : Word), w ≠ 0xFFFF → w ≠ 0x0000 → decode c w =
    if w.extractLsb' 8 4 = w.extractLsb' 12 4 then .invalid .sourceEqualsDestination
    else if w.extractLsb' 4 2 = 3 then
      if w.extractLsb' 0 4 = 15 then .invalid .noOperationNoLoad
      else .invalid .operationLoadConflict
    else .decoded
      { fields :=
          { operation := w.extractLsb' 0 4, loadType := w.extractLsb' 4 2
            loadLength := w.extractLsb' 6 2, source := w.extractLsb' 8 4
            destination := w.extractLsb' 12 4 }
        opName := opName (w.extractLsb' 0 4)
        loadTypeName := loadTypeName (w.extractLsb' 4 2)
        loadLengthName := loadLengthName c (w.extractLsb' 6 2)
        srcName := regName c (w.extractLsb' 8 4)
        dstName := regName c (w.extractLsb' 12 4) }

/-- R81: the record `decode` returns has different registers, a load type below 3, the table entry of
each value, and the word's own fields, which rebuild the word; the rule's example. -/
def Obligations.DecodedRecordIsSound : Prop :=
  (∀ (c : Config) (w : Word) (d : DecodedInstruction), decode c w = .decoded d →
    d.fields.source ≠ d.fields.destination ∧
    (d.fields.loadType = 0 ∨ d.fields.loadType = 1 ∨ d.fields.loadType = 2) ∧
    d.opName = opName d.fields.operation ∧
    d.loadTypeName = loadTypeName d.fields.loadType ∧
    d.loadLengthName = loadLengthName c d.fields.loadLength ∧
    d.srcName = regName c d.fields.source ∧
    d.dstName = regName c d.fields.destination ∧
    reconstitute d.fields = w) ∧
  decode .default 0x1023 = .decoded
    { fields := { operation := 3, loadType := 2, loadLength := 0, source := 0, destination := 1 }
      opName := "divide", loadTypeName := "immediate", loadLengthName := "1 byte"
      srcName := "a", dstName := "x" }

/-- R76: the sixteen operation names, pairwise distinct. -/
def Obligations.OperationNames : Prop :=
  (List.map opName [0, 1, 2, 3, 4, 5, 6, 7, 8, 9, 10, 11, 12, 13, 14, 15] =
    ["sum", "subtract", "multiply", "divide", "and", "or", "nand", "nor", "xor", "shift-left",
      "shift-right", "rotate-right", "pop-stack", "push-stack", "software interrupt", "nop"]) ∧
  (∀ i j : BitVec 4, opName i = opName j → i = j)

/-- R77: the sixteen register names under any parameters, the thirteen that the source gives being
pairwise distinct, and the default of the three slots. -/
def Obligations.RegisterNames : Prop :=
  (∀ c : Config, List.map (regName c) [0, 1, 2, 3, 4, 5, 6, 7, 8, 9, 10, 11, 12, 13, 14, 15] =
    ["a", "x", "y", "b", "w", "z", "c", "d", "pc", "sb", "sp", "fl",
      c.regName12, c.regName13, c.regName14, "none"]) ∧
  (∀ (c : Config) (i j : BitVec 4), i ≠ 12 → i ≠ 13 → i ≠ 14 → j ≠ 12 → j ≠ 13 → j ≠ 14 →
    regName c i = regName c j → i = j) ∧
  (Config.default.regName12 = "reserved" ∧ Config.default.regName13 = "reserved" ∧
    Config.default.regName14 = "reserved")

/-- R78: the four load type names, and that the decoder never reaches the fourth. The positions of
"register" and "ram" are the spec's decision D7 (log entry 14). -/
def Obligations.LoadTypeNoneIsNeverNamed : Prop :=
  List.map loadTypeName [0, 1, 2, 3] = ["register", "ram", "immediate", "none"] ∧
  (∀ (c : Config) (w : Word) (d : DecodedInstruction), decode c w = .decoded d →
    d.fields.loadType ≠ 3 ∧ d.loadTypeName ≠ "none")

/-- R79 and R35: the four load length names under any parameters, their defaults, the widths in
bytes, and that no legality check reads the field. -/
def Obligations.LoadLengthNamesAndWidths : Prop :=
  (∀ c : Config, List.map (loadLengthName c) [0, 1, 2, 3] =
    ["1 byte", c.lenName1, c.lenName2, c.lenName3]) ∧
  List.map (loadLengthName .default) [0, 1, 2, 3] = ["1 byte", "2 bytes", "4 bytes", "8 bytes"] ∧
  List.map loadLengthBytes [0, 1, 2, 3] = [1, 2, 4, 8] ∧
  (∀ (c : Config) (w v : Word), w &&& 0xFF3F = v &&& 0xFF3F →
    ((∃ d, decode c w = .decoded d) ↔ (∃ d, decode c v = .decoded d)))

/-- R42: a word with a reserved register index that passes the other checks decodes, with the raw
index and the slot's name. -/
def Obligations.ReservedRegistersAreAccepted : Prop :=
  ∀ (c : Config) (w : Word) (i : BitVec 4) (name : String),
    (i, name) ∈ [(12, c.regName12), (13, c.regName13), (14, c.regName14)] →
    w.extractLsb' 8 4 ≠ w.extractLsb' 12 4 → w.extractLsb' 4 2 ≠ 3 →
    (w.extractLsb' 8 4 = i →
      ∃ d, decode c w = .decoded d ∧ d.fields.source = i ∧ d.srcName = name) ∧
    (w.extractLsb' 12 4 = i →
      ∃ d, decode c w = .decoded d ∧ d.fields.destination = i ∧ d.dstName = name)

/-! ## The renderer -/

/-- R90 and R91: the three arms of `render` on every outcome value, with the worked example. That they
hold of records that `decode` never returns too, and the example of such a record, are R96, the spec's
decision D21. -/
def Obligations.RenderFormat : Prop :=
  (∀ (c : Config) (d : DecodedInstruction), render c (.decoded d) =
    d.opName ++ " " ++ d.loadTypeName ++ " " ++ d.loadLengthName ++ " wide with src: " ++
      d.srcName ++ " into " ++ d.dstName) ∧
  (∀ c : Config, render c .nopSentinel = "NOP") ∧
  (∀ (c : Config) (r : Reason), render c (.invalid r) = message c.messages r) ∧
  render .default (.decoded (resolve .default
    { operation := 0, loadType := 3, loadLength := 0, source := 1, destination := 1 })) =
    "sum none 1 byte wide with src: x into x" ∧
  render .default (decode .default 0x1023) = "divide immediate 1 byte wide with src: a into x"

/-- R92: the sentinel's line is "NOP", no instruction's line is, for every one contains
" wide with src: ". -/
def Obligations.NoInstructionLineIsNOP : Prop :=
  ∀ c : Config, render c .nopSentinel = "NOP" ∧ opName 15 = "nop" ∧
    ∀ d : DecodedInstruction,
      (∃ before after, render c (.decoded d) = before ++ " wide with src: " ++ after) ∧
      render c (.decoded d) ≠ "NOP"

/-- R93: the messages are pairwise distinct under any parameters; the default texts; with the
defaults every message begins as no instruction line begins, and none is "NOP". -/
def Obligations.MessagesTellReasonsApart : Prop :=
  (∀ (c : Config) (r r' : Reason),
    render c (.invalid r) = render c (.invalid r') → r = r') ∧
  render .default (.invalid .allZeroReserved) =
    "invalid encoding: the all-zero word is reserved" ∧
  render .default (.invalid .sourceEqualsDestination) =
    "invalid encoding: source and destination are the same register" ∧
  render .default (.invalid .noOperationNoLoad) = "invalid encoding: no operation and no load" ∧
  render .default (.invalid .operationLoadConflict) =
    "invalid encoding: operation requires a load type other than none" ∧
  (∀ r : Reason, "invalid encoding: ".toList <+: (render .default (.invalid r)).toList ∧
    render .default (.invalid r) ≠ "NOP") ∧
  (∀ (c : Config) (w : Word) (d : DecodedInstruction), decode c w = .decoded d →
    ¬ "invalid encoding: ".toList <+: (render c (.decoded d)).toList)

/-- The model's form of U6 (log entry 4): four texts are admitted as messages exactly when no two are
equal, and then they are the messages. -/
def Obligations.EqualMessagesAreRefused : Prop :=
  ∀ a b c d : String,
    (Messages.ofTexts a b c d = none ↔ (a = b ∨ a = c ∨ a = d ∨ b = c ∨ b = d ∨ c = d)) ∧
    (∀ m, Messages.ofTexts a b c d = some m →
      message m .allZeroReserved = a ∧ message m .sourceEqualsDestination = b ∧
      message m .noOperationNoLoad = c ∧ message m .operationLoadConflict = d)

/-- R95: the length bounds, with the defaults and with any parameters, and the lines that meet
them. -/
def Obligations.LineLengthBounds : Prop :=
  (∀ (w : Word) (d : DecodedInstruction), decode .default w = .decoded d →
    37 ≤ (render .default (.decoded d)).length ∧ (render .default (.decoded d)).length ≤ 74) ∧
  (render .default (decode .default 0x0115) = "or ram 1 byte wide with src: x into a" ∧
    (render .default (decode .default 0x0115)).length = 37) ∧
  (render .default (decode .default 0xEDEE) =
      "software interrupt immediate 8 bytes wide with src: reserved into reserved" ∧
    (render .default (decode .default 0xEDEE)).length = 74) ∧
  (∀ c : Config, (render c .nopSentinel).length = 3) ∧
  (List.map (fun r => (render .default (.invalid r)).length)
      [.allZeroReserved, .sourceEqualsDestination, .noOperationNoLoad, .operationLoadConflict] =
    [47, 62, 42, 64]) ∧
  (∀ (c : Config) (w : Word) (lens regs : Nat),
    (∀ i, (loadLengthName c i).length ≤ lens) → (∀ i, (regName c i).length ≤ regs) →
    ∀ d, decode c w = .decoded d →
      (render c (.decoded d)).length ≤ 18 + 1 + 9 + 1 + lens + 16 + regs + 6 + regs)

/-- R94: where the parameter strings are printable ASCII, so is the text of every word, one byte a
character, each from 0x20 to 0x7E; the byte view of 95_test_vectors.md for 0x1023. -/
def Obligations.TextIsPrintable : Prop :=
  (∀ (c : Config) (w : Word),
    (∀ s ∈ [c.regName12, c.regName13, c.regName14, c.lenName1, c.lenName2, c.lenName3,
      c.messages.allZeroReserved, c.messages.sourceEqualsDestination, c.messages.noOperationNoLoad,
      c.messages.operationLoadConflict], printable s = true) →
    (textBytes (render c (decode c w))).length = (render c (decode c w)).length ∧
    ∀ b ∈ textBytes (render c (decode c w)), 0x20 ≤ b.toNat ∧ b.toNat ≤ 0x7E) ∧
  textBytes (render .default (decode .default 0x1023)) =
    [0x64, 0x69, 0x76, 0x69, 0x64, 0x65, 0x20, 0x69, 0x6D, 0x6D, 0x65, 0x64, 0x69, 0x61, 0x74, 0x65,
      0x20, 0x31, 0x20, 0x62, 0x79, 0x74, 0x65, 0x20, 0x77, 0x69, 0x64, 0x65, 0x20, 0x77, 0x69, 0x74,
      0x68, 0x20, 0x73, 0x72, 0x63, 0x3A, 0x20, 0x61, 0x20, 0x69, 0x6E, 0x74, 0x6F, 0x20, 0x78]

/-! ## What each instruction does -/

/-- `sum`, `subtract`, `multiply`, `divide` answer on every legal operand (R100 to R103). -/
def Obligations.ArithmeticRowsDecode : Prop :=
  DecodesAs .sum 0 "sum" ∧ DecodesAs .subtract 1 "subtract" ∧ DecodesAs .multiply 2 "multiply" ∧
    DecodesAs .divide 3 "divide"

/-- `and`, `or`, `nand`, `nor`, `xor` answer on every legal operand (R104 to R108). -/
def Obligations.LogicRowsDecode : Prop :=
  DecodesAs .and 4 "and" ∧ DecodesAs .or 5 "or" ∧ DecodesAs .nand 6 "nand" ∧
    DecodesAs .nor 7 "nor" ∧ DecodesAs .xor 8 "xor"

/-- `shift-left`, `shift-right`, `rotate-right` answer on every legal operand (R109 to R111). -/
def Obligations.ShiftRowsDecode : Prop :=
  DecodesAs .shiftLeft 9 "shift-left" ∧ DecodesAs .shiftRight 10 "shift-right" ∧
    DecodesAs .rotateRight 11 "rotate-right"

/-- `pop-stack`, `push-stack` answer on every legal operand, no register index being special (R112,
R113). -/
def Obligations.StackRowsDecode : Prop :=
  DecodesAs .popStack 12 "pop-stack" ∧ DecodesAs .pushStack 13 "push-stack"

/-- `software interrupt` is decoded like any other operation and raises nothing (R114, R130). -/
def Obligations.SoftwareInterruptRowDecodes : Prop :=
  DecodesAs .softwareInterrupt 14 "software interrupt"

/-- `nop`, operation 15, is an ordinary decoded instruction on every legal operand (R115), and no
operand makes its row answer with the sentinel. For the operand 15, 15, 3, 3 the latter is the model's
choice (DESIGN CHOICE, log entry 6): the spec gives the word 0xFFFF to the row `NOP` (R115, R116), so
the term is the meaning of no word, and the last clause says that no word selects it. -/
def Obligations.NopRowDecodes : Prop :=
  DecodesAs .nop 15 "nop" ∧
  (∀ (o : Operands) (s : State), ∃ t a, exec (.nop o) s = .next t ∧ t.answer = some a ∧
    a.outcome ≠ .nopSentinel) ∧
  (∀ w : Word, selectRow w ≠ .nop ⟨15, 15, 3, 3⟩)

/-- R116: the whole-word sentinel, its encoding, its row, its answer and its line; that no other word
is accepted with equal register fields or with operation 15 and load_type 3; and its sixteen
neighbours at Hamming distance 1, all rejected. -/
def Obligations.SentinelRowAnswers : Prop :=
  (∀ s : State, exec .nopSentinel s =
    .next { s with answer := some { outcome := .nopSentinel, text := "NOP" } }) ∧
  encode .nopSentinel = 0xFFFF ∧ selectRow 0xFFFF = .nopSentinel ∧
  (∀ (c : Config) (w : Word), (∀ r, decode c w ≠ .invalid r) →
    (w.extractLsb' 8 4 = w.extractLsb' 12 4 → w = 0xFFFF) ∧
    (w.extractLsb' 0 4 = 15 → w.extractLsb' 4 2 = 3 → w = 0xFFFF)) ∧
  (∀ (c : Config) (w : Word), decode c w = .nopSentinel ↔ w = 0xFFFF) ∧
  (∀ (c : Config) (w : Word),
    w ∈ [0x7FFF, 0xBFFF, 0xDFFF, 0xEFFF, 0xF7FF, 0xFBFF, 0xFDFF, 0xFEFF] →
    decode c w = .invalid .noOperationNoLoad) ∧
  (∀ (c : Config) (w : Word),
    w ∈ [0xFF7F, 0xFFBF, 0xFFDF, 0xFFEF, 0xFFF7, 0xFFFB, 0xFFFD, 0xFFFE] →
    decode c w = .invalid .sourceEqualsDestination)

/-- R117: the reserved word, its encoding, its row, its answer and its message, and its neighbours at
Hamming distance 1: rejected in the low byte, `sum register 1 byte` in the high byte. That load_type 0
has the name "register" rests on the spec's decision D7 (log entry 14). -/
def Obligations.ReservedRowAnswers : Prop :=
  (∀ s : State, exec .reservedAllZero s = .next { s with
    answer := some
      { outcome := .invalid .allZeroReserved, text := s.config.messages.allZeroReserved } }) ∧
  encode .reservedAllZero = 0x0000 ∧ selectRow 0x0000 = .reservedAllZero ∧
  (∀ (c : Config) (w : Word), decode c w = .invalid .allZeroReserved ↔ w = 0x0000) ∧
  (∀ (c : Config) (w : Word),
    w ∈ [0x0001, 0x0002, 0x0004, 0x0008, 0x0010, 0x0020, 0x0040, 0x0080] →
    w.extractLsb' 8 4 = 0 ∧ w.extractLsb' 12 4 = 0 ∧
    decode c w = .invalid .sourceEqualsDestination) ∧
  (∀ (c : Config) (w : Word),
    w ∈ [0x0100, 0x0200, 0x0400, 0x0800, 0x1000, 0x2000, 0x4000, 0x8000] →
    w.extractLsb' 8 4 ≠ w.extractLsb' 12 4 ∧
    ∃ d, decode c w = .decoded d ∧ d.opName = "sum" ∧ d.loadTypeName = "register" ∧
      d.loadLengthName = "1 byte") ∧
  render .default (decode .default 0x0100) = "sum register 1 byte wide with src: x into a"

/-- Every operation row rejects equal register fields by literal equality, whatever its other
operands, `none` against itself included (R64, U1). On two terms this is the model's choice (DESIGN
CHOICE, log entry 6): `sum` on 0, 0, 0, 0 and `nop` on 15, 15, 3, 3, whose words 0x0000 and 0xFFFF the
spec answers otherwise (R100, R115, U1), by the rows that they select. -/
def Obligations.EveryRowRejectsEqualRegisters : Prop :=
  ∀ mk ∈ [Instr.sum, .subtract, .multiply, .divide, .and, .or, .nand, .nor, .xor, .shiftLeft,
      .shiftRight, .rotateRight, .popStack, .pushStack, .softwareInterrupt, .nop],
    RejectsWhen mk (fun o => o.source = o.destination) .sourceEqualsDestination

/-- The rows 0 to 14 reject load_type 3 as a conflict, the row `nop` as no operation and no load,
once the register fields differ (R65, R66). -/
def Obligations.EveryRowRejectsLoadTypeThree : Prop :=
  (∀ mk ∈ [Instr.sum, .subtract, .multiply, .divide, .and, .or, .nand, .nor, .xor, .shiftLeft,
      .shiftRight, .rotateRight, .popStack, .pushStack, .softwareInterrupt],
    RejectsWhen mk (fun o => o.source ≠ o.destination ∧ o.loadType = 3) .operationLoadConflict) ∧
  RejectsWhen .nop (fun o => o.source ≠ o.destination ∧ o.loadType = 3) .noOperationNoLoad

/-- No instruction writes the parameters, the input port or the block itself, which has nothing to
write; all it does is to answer the consumer, and the line in the answer is that of its outcome (R85,
R86, R90). -/
def Obligations.InstructionFrame : Prop :=
  ∀ (i : Instr) (s t : State), exec i s = .next t →
    t.block = s.block ∧ t.config = s.config ∧ t.word = s.word ∧
    ∃ o, t.answer = some { outcome := o, text := render s.config o }

/-! ## The machine -/

/-- A step is the meaning of the row of the presented word, and presenting the word of a legal
instruction and stepping runs that instruction; nothing is added around it. -/
def Obligations.StepRunsThePresentedInstruction : Prop :=
  (∀ s : State, step s = exec (selectRow s.word) s) ∧
  (∀ (s : State) (i : Instr), i.WellFormed → step (s.present (encode i)) = exec i (s.present (encode i)))

/-- The table-driven machine is the spec's decoder and renderer: one step on any state answers exactly
`decode` and `render` of the presented word and changes nothing else (R10, R75, R90). -/
def Obligations.StepRefinesDecodeAndRender : Prop :=
  ∀ s : State, step s = .next { s with
    answer := some
      { outcome := decode s.config s.word, text := render s.config (decode s.config s.word) } }

/-- The block never faults, never refuses and never stalls: every instruction answers in every state,
and so does every step (R148). -/
def Obligations.TheBlockAlwaysAnswers : Prop :=
  (∀ (i : Instr) (s : State), ∃ t, exec i s = .next t) ∧ (∀ s : State, Answers s)

/-- After a step from any state at all, the answer the consumer holds is what the block drives for the
word on the input port, and driving goes on as it did before the step (R145); so every step keeps the
invariant that no stale answer is held. Presenting a word keeps it too, which is the model's choice and
no rule (DESIGN CHOICE, log entry 7): presenting empties the consumer's answer, which R19 leaves to the
consumer to keep. -/
def Obligations.StepAnswersWithTheCurrentOutputs : Prop :=
  (∀ s t : State, step s = .next t →
    t.answer = some ⟨t.outcome, t.text⟩ ∧ AnswerIsCurrent t ∧
    t.outcome = s.outcome ∧ t.text = s.text ∧ t.rawFields = s.rawFields ∧
    ∀ u, t.ports u = s.ports u) ∧
  (∀ (s : State) (w : Word), AnswerIsCurrent (s.present w))

/-- Reset: the parameters are the defaults, and the outputs are the functions of the word on the input
port (R18, R140). That this word is 0x0000, hence the outcome and the line, and that nobody has used
the block, hence no answer is held, are the model's choices (DESIGN CHOICE, log entries 2 and 1). -/
def Obligations.ResetIsUnusedAndCurrent : Prop :=
  State.reset.answer = none ∧ AnswerIsCurrent State.reset ∧ State.reset.config = Config.default ∧
  State.reset.outcome = .invalid .allZeroReserved ∧
  State.reset.text = "invalid encoding: the all-zero word is reserved"

/-- A step answers with a rejection exactly for that reason's cause, with the reason's text (the causes
of R121 to R124, at the machine's step). -/
def Obligations.StepRejectsExactlyByCause : Prop :=
  ∀ s : State, ∃ t a, step s = .next t ∧ t.answer = some a ∧
    (a.outcome = .invalid .allZeroReserved ↔ s.word = 0x0000) ∧
    (a.outcome = .invalid .sourceEqualsDestination ↔
      s.word ≠ 0xFFFF ∧ s.word ≠ 0x0000 ∧ s.word.extractLsb' 8 4 = s.word.extractLsb' 12 4) ∧
    (a.outcome = .invalid .noOperationNoLoad ↔
      s.word ≠ 0xFFFF ∧ s.word ≠ 0x0000 ∧ s.word.extractLsb' 8 4 ≠ s.word.extractLsb' 12 4 ∧
      s.word.extractLsb' 0 4 = 15 ∧ s.word.extractLsb' 4 2 = 3) ∧
    (a.outcome = .invalid .operationLoadConflict ↔
      s.word ≠ 0xFFFF ∧ s.word ≠ 0x0000 ∧ s.word.extractLsb' 8 4 ≠ s.word.extractLsb' 12 4 ∧
      s.word.extractLsb' 0 4 ≠ 15 ∧ s.word.extractLsb' 4 2 = 3) ∧
    (∀ r, a.outcome = .invalid r → a.text = message s.config.messages r)

/-- R143: the answer for a word depends neither on the word before it, whatever that word's outcome
was (a rejection leaves no trace), nor on how long a word has been presented. -/
def Obligations.EarlierWordsLeaveNoTrace : Prop :=
  (∀ (s t : State) (w : Word), step s = .next t → step (t.present w) = step (s.present w)) ∧
  (∀ s t : State, step s = .next t → step t = .next t)

/-- The answer depends on the word and the constant tables alone: two blocks with the same
parameters, whatever their consumers hold, answer the same word alike, and the raw outcome kind and
reason do not even depend on the parameters (R10, R25, U5). -/
def Obligations.OutcomeDependsOnWordAlone : Prop :=
  (∀ s s' t t' : State, s.config = s'.config → s.word = s'.word → step s = .next t →
    step s' = .next t' → t = t') ∧
  (∀ s s' : State, s.word = s'.word → ∃ t t' a a', step s = .next t ∧ step s' = .next t' ∧
    t.answer = some a ∧ t'.answer = some a' ∧
    (a.outcome = .nopSentinel ↔ a'.outcome = .nopSentinel) ∧
    (∀ r, a.outcome = .invalid r ↔ a'.outcome = .invalid r) ∧
    (∀ d, a.outcome = .decoded d → ∃ d', a'.outcome = .decoded d' ∧ d'.fields = d.fields ∧
      d'.opName = d.opName ∧ d'.loadTypeName = d.loadTypeName))

/-- R147: a run on a list of words is the list of their outcomes, `map decode words`, with their
lines, from any state. -/
def Obligations.RunIsMapDecode : Prop :=
  ∀ (ws : List Word) (s : State),
    runWords ws s = ws.map fun w =>
      some { outcome := decode s.config w, text := render s.config (decode s.config w) }

/-- R144: however the callers' uses of the block's copies are interleaved, each caller gets back, in
its own order, the outcomes of its own words, with their lines. -/
def Obligations.CallersDoNotInterfere : Prop :=
  ∀ (c : Config) (uses : List Use) (blocks : List State) (k : Nat),
    (∀ s ∈ blocks, s.config = c) → (∀ u ∈ uses, u.copy < blocks.length) →
    ((runUses uses blocks).filter (·.1 == k)).map (·.2) =
      (uses.filter (·.caller == k)).map fun u =>
        some { outcome := decode c u.word, text := render c (decode c u.word) }

/-- R13 with R125's codes: in every state, with no step, the wires carry the outcome of the word on the
input port in the coding the parameters give (with the default coding 3 is never driven), every
meaningful wire carries its value whatever the others do, and a wire without meaning for the outcome
keeps whatever it has. -/
def Obligations.PortsCarryTheOutcome : Prop :=
  ∀ (s : State) (u : Ports), s.config.outcomeCodes = ⟨0, 1, 2⟩ →
    s.config.reasonCodes = ⟨0, 1, 2, 3⟩ →
    (s.ports u).outcome ≠ 3 ∧
    (s.ports u).text = render s.config (decode s.config s.word) ∧
    ((s.ports u).outcome = 1 ↔ decode s.config s.word = .nopSentinel) ∧
    ((s.ports u).outcome = 2 →
      decode s.config s.word = .invalid
        (if (s.ports u).reason = 0 then .allZeroReserved
          else if (s.ports u).reason = 1 then .sourceEqualsDestination
          else if (s.ports u).reason = 2 then .noOperationNoLoad
          else .operationLoadConflict)) ∧
    ((s.ports u).outcome = 0 →
      decode s.config s.word = .decoded
        { fields :=
            { operation := (s.ports u).operation, loadType := (s.ports u).loadType
              loadLength := (s.ports u).loadLength, source := (s.ports u).source
              destination := (s.ports u).destination }
          opName := (s.ports u).opName, loadTypeName := (s.ports u).loadTypeName
          loadLengthName := (s.ports u).loadLengthName, srcName := (s.ports u).srcName
          dstName := (s.ports u).dstName }) ∧
    ((s.ports u).outcome ≠ 0 →
      (s.ports u).operation = u.operation ∧ (s.ports u).loadType = u.loadType ∧
      (s.ports u).loadLength = u.loadLength ∧ (s.ports u).source = u.source ∧
      (s.ports u).destination = u.destination ∧ (s.ports u).opName = u.opName ∧
      (s.ports u).loadTypeName = u.loadTypeName ∧
      (s.ports u).loadLengthName = u.loadLengthName ∧ (s.ports u).srcName = u.srcName ∧
      (s.ports u).dstName = u.dstName) ∧
    ((s.ports u).outcome ≠ 2 → (s.ports u).reason = u.reason) ∧
    s.rawFields = extract s.word

/-- The outputs are not registered and not held after the input changes: once a word is on the port,
with no step, every output is the function of that word, so no earlier outcome can be read back from
the block (R19, and R145 with the spec's decision D17). That no answer is held then, and that the whole
states after two earlier uses are equal, the consumer's part included, is the model's choice (DESIGN
CHOICE, log entry 7): presenting empties the consumer's answer, which R19 leaves to the consumer. -/
def Obligations.OutputsFollowTheInputAtOnce : Prop :=
  (∀ (s : State) (w : Word) (u : Ports),
    (s.present w).outcome = decode s.config w ∧
    (s.present w).text = render s.config (decode s.config w) ∧
    (s.present w).rawFields = extract w ∧
    (s.present w).ports u =
      drivePorts s.config (render s.config (decode s.config w)) u (decode s.config w) ∧
    (s.present w).answer = none) ∧
  (∀ (s t t' : State) (v v' w : Word),
    step (s.present v) = .next t → step (s.present v') = .next t' → t.present w = t'.present w)

/-- R10: the block's own state is the unit type, and the answer to a presented word depends on that
word alone (and the constants): whatever was presented before, between and after, two presentations of
a word in one run, or in two runs of blocks with the same constants, get the same answer. -/
def Obligations.TheBlockHasNoState : Prop :=
  (∀ s t : State, s.block = t.block) ∧
  (∀ (s t : State) (w : Word), s.config = t.config → step (s.present w) = step (t.present w)) ∧
  (∀ (before between after : List Word) (w : Word) (s : State),
    let run := runWords (before ++ w :: between ++ w :: after) s
    run[before.length]? = run[before.length + 1 + between.length]? ∧
    run[before.length]? = some
      (some { outcome := decode s.config w, text := render s.config (decode s.config w) }))

/-- R145's `LATENCY` (the spec's decision D17) is read by no output and by no step: with any other value
the outputs are the same, and the step gives the same answer. -/
def Obligations.LatencyChangesNoAnswer : Prop :=
  ∀ (s : State) (n : Nat) (u : Ports),
    let slow := { s with config := { s.config with latency := n } }
    slow.outcome = s.outcome ∧ slow.text = s.text ∧ slow.rawFields = s.rawFields ∧
    slow.ports u = s.ports u ∧
    ∃ t t', step s = .next t ∧ step slow = .next t' ∧ t'.answer = t.answer
end

