-- ==== Sys2Proof/Laws/Decode.lean ====
section
/-! SUPPORT. Small facts about the fields of a word and the rows of the table. -/

namespace Sys2Proof

/-- A property of a 4-bit index that holds of each of its sixteen values. -/
theorem bitVec4_cases {P : BitVec 4 → Prop} (h0 : P 0) (h1 : P 1) (h2 : P 2) (h3 : P 3) (h4 : P 4)
    (h5 : P 5) (h6 : P 6) (h7 : P 7) (h8 : P 8) (h9 : P 9) (h10 : P 10) (h11 : P 11) (h12 : P 12)
    (h13 : P 13) (h14 : P 14) (h15 : P 15) (x : BitVec 4) : P x := by
  obtain ⟨n, hn⟩ := x
  interval_cases n <;> assumption

/-- A property of a 2-bit index that holds of each of its four values. -/
theorem bitVec2_cases {P : BitVec 2 → Prop} (h0 : P 0) (h1 : P 1) (h2 : P 2) (h3 : P 3)
    (x : BitVec 2) : P x := by
  obtain ⟨n, hn⟩ := x
  interval_cases n <;> assumption

@[simp] theorem operandsOf_destination (w : Word) :
    (operandsOf w).destination = (extract w).destination := rfl
@[simp] theorem operandsOf_source (w : Word) : (operandsOf w).source = (extract w).source := rfl
@[simp] theorem operandsOf_loadLength (w : Word) :
    (operandsOf w).loadLength = (extract w).loadLength := rfl
@[simp] theorem operandsOf_loadType (w : Word) :
    (operandsOf w).loadType = (extract w).loadType := rfl
@[simp] theorem operandsOf_withOperation (w : Word) :
    (operandsOf w).withOperation (extract w).operation = extract w := rfl

/-- The constraints of a word's row, said of the word's own fields. -/
theorem illegality_operandsOf (w : Word) (r : Reason) :
    (operandsOf w).illegality r =
      if (extract w).source = (extract w).destination then some .sourceEqualsDestination
      else if (extract w).loadType = 3 then some r
      else none := rfl

namespace Instr

@[simp] theorem ofOperation_0 (o : Operands) : ofOperation 0 o = .sum o := rfl
@[simp] theorem ofOperation_1 (o : Operands) : ofOperation 1 o = .subtract o := rfl
@[simp] theorem ofOperation_2 (o : Operands) : ofOperation 2 o = .multiply o := rfl
@[simp] theorem ofOperation_3 (o : Operands) : ofOperation 3 o = .divide o := rfl
@[simp] theorem ofOperation_4 (o : Operands) : ofOperation 4 o = .and o := rfl
@[simp] theorem ofOperation_5 (o : Operands) : ofOperation 5 o = .or o := rfl
@[simp] theorem ofOperation_6 (o : Operands) : ofOperation 6 o = .nand o := rfl
@[simp] theorem ofOperation_7 (o : Operands) : ofOperation 7 o = .nor o := rfl
@[simp] theorem ofOperation_8 (o : Operands) : ofOperation 8 o = .xor o := rfl
@[simp] theorem ofOperation_9 (o : Operands) : ofOperation 9 o = .shiftLeft o := rfl
@[simp] theorem ofOperation_10 (o : Operands) : ofOperation 10 o = .shiftRight o := rfl
@[simp] theorem ofOperation_11 (o : Operands) : ofOperation 11 o = .rotateRight o := rfl
@[simp] theorem ofOperation_12 (o : Operands) : ofOperation 12 o = .popStack o := rfl
@[simp] theorem ofOperation_13 (o : Operands) : ofOperation 13 o = .pushStack o := rfl
@[simp] theorem ofOperation_14 (o : Operands) : ofOperation 14 o = .softwareInterrupt o := rfl
@[simp] theorem ofOperation_15 (o : Operands) : ofOperation 15 o = .nop o := rfl

end Instr

/-- The low four bits of a reconstituted word are its operation, and no other field reaches them. -/
theorem reconstitute_and_operation (f : Fields) :
    reconstitute f &&& 0x000F = f.operation.setWidth 16 := by
  apply BitVec.eq_of_getLsbD_eq
  intro i hi
  unfold reconstitute
  interval_cases i <;> simp

end Sys2Proof
end

