-- ==== Sys2Proof/Laws/Names.lean ====
section
/-! SUPPORT. The fields of a resolved record, and how the text predicates meet concatenation. -/

namespace Sys2Proof.Machine

@[simp] theorem resolve_fields (c : Config) (f : Fields) : (resolve c f).fields = f := rfl
@[simp] theorem resolve_opName (c : Config) (f : Fields) :
    (resolve c f).opName = opName f.operation := rfl
@[simp] theorem resolve_loadTypeName (c : Config) (f : Fields) :
    (resolve c f).loadTypeName = loadTypeName f.loadType := rfl
@[simp] theorem resolve_loadLengthName (c : Config) (f : Fields) :
    (resolve c f).loadLengthName = loadLengthName c f.loadLength := rfl
@[simp] theorem resolve_srcName (c : Config) (f : Fields) :
    (resolve c f).srcName = regName c f.source := rfl
@[simp] theorem resolve_dstName (c : Config) (f : Fields) :
    (resolve c f).dstName = regName c f.destination := rfl

@[simp] theorem printable_append (a b : String) :
    printable (a ++ b) = (printable a && printable b) := by
  simp [printable]

@[simp] theorem textBytes_append (a b : String) : textBytes (a ++ b) = textBytes a ++ textBytes b := by
  simp [textBytes]

end Sys2Proof.Machine
end

