-- ==== Sys2Proof/Laws/State.lean ====
section
/-! SUPPORT. One lemma per field of State, and per output of the block, per update, so that no proof
unfolds a record update. -/

namespace Sys2Proof.Machine.State

@[simp] theorem present_block (s : State) (w : Word) : (s.present w).block = s.block := rfl
@[simp] theorem present_config (s : State) (w : Word) : (s.present w).config = s.config := rfl
@[simp] theorem present_word (s : State) (w : Word) : (s.present w).word = w := rfl
@[simp] theorem present_answer (s : State) (w : Word) : (s.present w).answer = none := rfl
@[simp] theorem present_outcome (s : State) (w : Word) :
    (s.present w).outcome = decode s.config w := rfl
@[simp] theorem present_text (s : State) (w : Word) :
    (s.present w).text = render s.config (decode s.config w) := rfl
@[simp] theorem present_rawFields (s : State) (w : Word) : (s.present w).rawFields = extract w := rfl

@[simp] theorem deliver_block (s : State) (o : Outcome) : (s.deliver o).block = s.block := rfl
@[simp] theorem deliver_config (s : State) (o : Outcome) : (s.deliver o).config = s.config := rfl
@[simp] theorem deliver_word (s : State) (o : Outcome) : (s.deliver o).word = s.word := rfl
@[simp] theorem deliver_answer (s : State) (o : Outcome) :
    (s.deliver o).answer = some { outcome := o, text := render s.config o } := rfl
@[simp] theorem deliver_outcome (s : State) (o : Outcome) : (s.deliver o).outcome = s.outcome := rfl
@[simp] theorem deliver_text (s : State) (o : Outcome) : (s.deliver o).text = s.text := rfl
@[simp] theorem deliver_rawFields (s : State) (o : Outcome) :
    (s.deliver o).rawFields = s.rawFields := rfl
@[simp] theorem deliver_ports (s : State) (o : Outcome) (u : Ports) :
    (s.deliver o).ports u = s.ports u := rfl

@[simp] theorem present_present (s : State) (v w : Word) :
    (s.present v).present w = s.present w := rfl
@[simp] theorem deliver_deliver (s : State) (o p : Outcome) :
    (s.deliver o).deliver p = s.deliver p := rfl
@[simp] theorem deliver_present (s : State) (o : Outcome) (w : Word) :
    (s.deliver o).present w = s.present w := rfl

@[simp] theorem withFetchWord_config (s : State) (n w : Nat) :
    (s.withFetchWord n w).config = s.config := rfl
@[simp] theorem withFetchWord_word (s : State) (n w : Nat) :
    (s.withFetchWord n w).word = BitVec.ofNat 16 (w % 2 ^ n) := rfl
@[simp] theorem withFetchWord_answer (s : State) (n w : Nat) :
    (s.withFetchWord n w).answer = none := rfl

end Sys2Proof.Machine.State
end

