-- ==== Sys2Proof/Laws/Ops.lean ====
section
/-! SUPPORT. What each shared operation can do, said once. -/

namespace Sys2Proof.Machine

@[simp] theorem reject_eq (r : Reason) (s : State) : reject r s = .next (s.deliver (.invalid r)) := rfl

@[simp] theorem accept_eq (f : Fields) (s : State) :
    accept f s = .next (s.deliver (.decoded (resolve s.config f))) := rfl

@[simp] theorem acceptSentinel_eq (s : State) : acceptSentinel s = .next (s.deliver .nopSentinel) := rfl

/-- The outcome an operation row gives, as one value. -/
def rowOutcome (c : Config) (op : BitVec 4) (noLoad : Reason) (o : Operands) : Outcome :=
  match o.illegality noLoad with
  | some r => .invalid r
  | none => .decoded (resolve c (o.withOperation op))

/-- An operation row always answers, and all it does is to deliver its outcome. -/
theorem runRow_eq (op : BitVec 4) (noLoad : Reason) (o : Operands) (s : State) :
    runRow op noLoad o s = .next (s.deliver (rowOutcome s.config op noLoad o)) := by
  unfold runRow rowOutcome Operands.illegality
  split
  · rfl
  · split <;> rfl

/-- The three ways through an operation row. -/
theorem runRow_cases {op : BitVec 4} {noLoad : Reason} {o : Operands} {s t : State}
    (h : runRow op noLoad o s = .next t) :
    (o.source = o.destination ∧ t = s.deliver (.invalid .sourceEqualsDestination)) ∨
    (o.source ≠ o.destination ∧ o.loadType = 3 ∧ t = s.deliver (.invalid noLoad)) ∨
    (o.source ≠ o.destination ∧ o.loadType ≠ 3 ∧
      t = s.deliver (.decoded (resolve s.config (o.withOperation op)))) := by
  unfold runRow at h
  split at h
  case isTrue he => cases h; exact .inl ⟨he, rfl⟩
  case isFalse he =>
    split at h
    case isTrue hl => cases h; exact .inr (.inl ⟨he, hl, rfl⟩)
    case isFalse hl => cases h; exact .inr (.inr ⟨he, hl, rfl⟩)

end Sys2Proof.Machine
end

