-- ==== Sys2Proof/Laws/PerInstr.lean ====
section
/-! SUPPORT. Statements made per instruction. Family RowMatch: the word of an instruction agrees with
the pattern of its own row under that row's mask. -/

namespace Sys2Proof.Laws.RowMatch

/-- The word of `i` is one of the words of the table row with `i`'s mnemonic (R33, R45). -/
def Statement (i : Instr) : Prop :=
  ∃ r ∈ opcodeTable, r.mnemonic = i.mnemonic ∧ encode i &&& r.mask = r.pattern

/-- An operation row: found in the table, its pattern the operation value. -/
theorem of_operation {i : Instr} {o : Operands} (op : BitVec 4) (m : String)
    (henc : encode i = reconstitute (o.withOperation op)) (hm : i.mnemonic = m)
    (hrow : ⟨m, op.setWidth 16, 0x000F⟩ ∈ opcodeTable) : Statement i :=
  ⟨_, hrow, hm.symm, by rw [henc]; exact reconstitute_and_operation _⟩

theorem nopSentinel : Statement .nopSentinel := by simp [Statement, opcodeTable, encode, Instr.mnemonic]
theorem reservedAllZero : Statement .reservedAllZero := by
  simp [Statement, opcodeTable, encode, Instr.mnemonic]
theorem sum (o : Operands) : Statement (.sum o) :=
  of_operation 0 "sum" rfl rfl (by decide)
theorem subtract (o : Operands) : Statement (.subtract o) :=
  of_operation 1 "subtract" rfl rfl (by decide)
theorem multiply (o : Operands) : Statement (.multiply o) :=
  of_operation 2 "multiply" rfl rfl (by decide)
theorem divide (o : Operands) : Statement (.divide o) :=
  of_operation 3 "divide" rfl rfl (by decide)
theorem and (o : Operands) : Statement (.and o) :=
  of_operation 4 "and" rfl rfl (by decide)
theorem or (o : Operands) : Statement (.or o) :=
  of_operation 5 "or" rfl rfl (by decide)
theorem nand (o : Operands) : Statement (.nand o) :=
  of_operation 6 "nand" rfl rfl (by decide)
theorem nor (o : Operands) : Statement (.nor o) :=
  of_operation 7 "nor" rfl rfl (by decide)
theorem xor (o : Operands) : Statement (.xor o) :=
  of_operation 8 "xor" rfl rfl (by decide)
theorem shiftLeft (o : Operands) : Statement (.shiftLeft o) :=
  of_operation 9 "shift-left" rfl rfl (by decide)
theorem shiftRight (o : Operands) : Statement (.shiftRight o) :=
  of_operation 10 "shift-right" rfl rfl (by decide)
theorem rotateRight (o : Operands) : Statement (.rotateRight o) :=
  of_operation 11 "rotate-right" rfl rfl (by decide)
theorem popStack (o : Operands) : Statement (.popStack o) :=
  of_operation 12 "pop-stack" rfl rfl (by decide)
theorem pushStack (o : Operands) : Statement (.pushStack o) :=
  of_operation 13 "push-stack" rfl rfl (by decide)
theorem softwareInterrupt (o : Operands) : Statement (.softwareInterrupt o) :=
  of_operation 14 "software_interrupt" rfl rfl (by decide)
theorem nop (o : Operands) : Statement (.nop o) :=
  of_operation 15 "nop" rfl rfl (by decide)

end Sys2Proof.Laws.RowMatch
end

