-- ==== Sys2Proof/Tests/Slice0.lean ====
section
/-! SUPPORT. Tests: words and lines taken from the spec's rules and its test vectors
(44_operations.md, 95_test_vectors.md), ill-formed terms refused, and a witness for the hypotheses of
every statement that has some. -/

namespace Sys2Proof.Tests

open Sys2Proof.Machine

/-- The state a host outcome carries, if it is a next state. -/
def nextOf : Host.Outcome State Fault Refusal → Option State
  | .next t => some t
  | .fault _ => none
  | .refused _ => none

/-- The outcome and the line a consumer gets by presenting `w` to a block at reset and using it once. -/
def answer (w : Word) : Option (Outcome × String) :=
  ((nextOf (step (State.reset.present w))).bind (·.answer)).map fun a => (a.outcome, a.text)

/-- The line alone. -/
def lineOf (w : Word) : Option String := (answer w).map (·.2)

/-! ### Ill-formed terms are refused, by name -/

theorem test_wf_refuses_equal_registers :
    (Instr.sum ⟨1, 1, 0, 0⟩).illegality = some .sourceEqualsDestination := by decide
theorem test_wf_refuses_none_against_none :
    (Instr.popStack ⟨15, 15, 0, 0⟩).illegality = some .sourceEqualsDestination := by decide
theorem test_wf_refuses_load_type_three :
    (Instr.softwareInterrupt ⟨1, 0, 0, 3⟩).illegality = some .operationLoadConflict := by decide
theorem test_wf_refuses_nop_without_load :
    (Instr.nop ⟨1, 0, 2, 3⟩).illegality = some .noOperationNoLoad := by decide
theorem test_wf_refuses_reserved_word :
    Instr.reservedAllZero.illegality = some .allZeroReserved := by decide
theorem test_wf_accepts_reserved_registers : (Instr.sum ⟨13, 12, 2, 0⟩).WellFormed := by decide

/-! ### Words written out from the field layout of R31, one per constructor (R100 to R117) -/

theorem test_word_NOP : selectRow 0b1111111111111111 = .nopSentinel := by decide
theorem test_word_RESERVED : selectRow 0b0000000000000000 = .reservedAllZero := by decide
theorem test_word_sum : selectRow 0b0001000000000000 = .sum ⟨1, 0, 0, 0⟩ := by decide
theorem test_word_subtract : selectRow 0b0001001001000001 = .subtract ⟨1, 2, 1, 0⟩ := by decide
theorem test_word_multiply : selectRow 0b0010111101100010 = .multiply ⟨2, 15, 1, 2⟩ := by decide
theorem test_word_divide : selectRow 0b0001000000100011 = .divide ⟨1, 0, 0, 2⟩ := by decide
theorem test_word_and : selectRow 0b0011010000010100 = .and ⟨3, 4, 0, 1⟩ := by decide
theorem test_word_or : selectRow 0b0000000100010101 = .or ⟨0, 1, 0, 1⟩ := by decide
theorem test_word_nand : selectRow 0b0100010110000110 = .nand ⟨4, 5, 2, 0⟩ := by decide
theorem test_word_nor : selectRow 0b0101011011000111 = .nor ⟨5, 6, 3, 0⟩ := by decide
theorem test_word_xor : selectRow 0b0110111110101000 = .xor ⟨6, 15, 2, 2⟩ := by decide
theorem test_word_shiftLeft : selectRow 0b0001111100101001 = .shiftLeft ⟨1, 15, 0, 2⟩ := by decide
theorem test_word_shiftRight : selectRow 0b0111111100101010 = .shiftRight ⟨7, 15, 0, 2⟩ := by decide
theorem test_word_rotateRight : selectRow 0b0011000100001011 = .rotateRight ⟨3, 1, 0, 0⟩ := by decide
theorem test_word_popStack : selectRow 0b0010111101001100 = .popStack ⟨2, 15, 1, 0⟩ := by decide
theorem test_word_pushStack : selectRow 0b1111000001001101 = .pushStack ⟨15, 0, 1, 0⟩ := by decide
theorem test_word_softwareInterrupt : selectRow 0b1110111100101110 = .softwareInterrupt ⟨14, 15, 0, 2⟩ := by decide
theorem test_word_nop : selectRow 0b0010100111011111 = .nop ⟨2, 9, 3, 1⟩ := by decide

/-! ### One step on each (the lines are the examples of R100 to R117) -/

theorem test_step_NOP : answer 0xFFFF = some (.nopSentinel, "NOP") := by decide
theorem test_step_RESERVED : answer 0x0000 =
    some (.invalid .allZeroReserved, "invalid encoding: the all-zero word is reserved") := by decide
theorem test_step_sum :
    lineOf 0x1000 = some "sum register 1 byte wide with src: a into x" := by decide
theorem test_step_subtract :
    lineOf 0x1241 = some "subtract register 2 bytes wide with src: y into x" := by decide
theorem test_step_multiply :
    lineOf 0x2F62 = some "multiply immediate 2 bytes wide with src: none into y" := by decide
theorem test_step_divide :
    lineOf 0x1023 = some "divide immediate 1 byte wide with src: a into x" := by decide
theorem test_step_and :
    lineOf 0x3414 = some "and ram 1 byte wide with src: w into b" := by decide
theorem test_step_or :
    lineOf 0x0115 = some "or ram 1 byte wide with src: x into a" := by decide
theorem test_step_nand :
    lineOf 0x4586 = some "nand register 4 bytes wide with src: z into w" := by decide
theorem test_step_nor :
    lineOf 0x56C7 = some "nor register 8 bytes wide with src: c into z" := by decide
theorem test_step_xor :
    lineOf 0x6FA8 = some "xor immediate 4 bytes wide with src: none into c" := by decide
theorem test_step_shiftLeft :
    lineOf 0x1F29 = some "shift-left immediate 1 byte wide with src: none into x" := by decide
theorem test_step_shiftRight :
    lineOf 0x7F2A = some "shift-right immediate 1 byte wide with src: none into d" := by decide
theorem test_step_rotateRight :
    lineOf 0x310B = some "rotate-right register 1 byte wide with src: x into b" := by decide
theorem test_step_popStack :
    lineOf 0x2F4C = some "pop-stack register 2 bytes wide with src: none into y" := by decide
theorem test_step_pushStack :
    lineOf 0xF04D = some "push-stack register 2 bytes wide with src: a into none" := by decide
theorem test_step_softwareInterrupt :
    lineOf 0xEF2E = some "software interrupt immediate 1 byte wide with src: none into reserved" := by decide
theorem test_step_nop :
    lineOf 0x29DF = some "nop ram 8 bytes wide with src: sb into y" := by decide

/-! ### The edges of the checks (95_test_vectors.md, sections 1 and 3) -/

theorem test_equal_registers_before_load_type : answer 0x113F = some (.invalid .sourceEqualsDestination,
    "invalid encoding: source and destination are the same register") := by decide
theorem test_none_against_none : (answer 0xFFFE).map (·.1) =
    some (.invalid .sourceEqualsDestination) := by decide
theorem test_nop_without_load : answer 0x103F = some (.invalid .noOperationNoLoad,
    "invalid encoding: no operation and no load") := by decide
theorem test_sum_without_load : answer 0x1030 = some (.invalid .operationLoadConflict,
    "invalid encoding: operation requires a load type other than none") := by decide
theorem test_nop_opcode_is_not_the_sentinel :
    lineOf 0x100F = some "nop register 1 byte wide with src: a into x" := by decide
theorem test_reserved_slots_are_compared_by_index :
    lineOf 0xDC80 = some "sum register 4 bytes wide with src: reserved into reserved" := by decide
theorem test_extract_A5C3 : extract 0xA5C3 = ⟨3, 0, 3, 5, 10⟩ := by decide
theorem test_extract_FEDC : extract 0xFEDC = ⟨12, 1, 3, 14, 15⟩ := by decide
theorem test_table_word : decodeTableWord 16 0x1023 = some (.divide ⟨1, 0, 0, 2⟩) := by decide
theorem test_table_word_too_wide : decodeTableWord 16 0x10000 = none := by decide
theorem test_fetch_word_is_stepped :
    ((nextOf (step (State.reset.withFetchWord 16 0xF00F))).bind (·.answer)).map (·.text) =
      some "nop register 1 byte wide with src: a into none" := by decide
/-- The outputs change with the word on the port, with no step (R19, R145). -/
theorem test_outputs_need_no_step :
    ((State.reset.present 0xFFFF).present 0x1023).text =
      "divide immediate 1 byte wide with src: a into x" := by decide
/-- Program P5: the same word before and after the sentinel. -/
theorem test_run_P5 : (runWords [0x1023, 0xFFFF, 0x1023] State.reset).map (·.map (·.text)) =
    [some "divide immediate 1 byte wide with src: a into x", some "NOP",
      some "divide immediate 1 byte wide with src: a into x"] := by decide
theorem test_equal_messages_refused : Messages.ofTexts "a" "b" "c" "b" = none := by decide

/-! ### Witnesses: the hypotheses of each statement are met -/

/-- A step from reset answers. -/
theorem reset_answers : ∃ t, step State.reset = .next t := ⟨_, rfl⟩

theorem witness_FieldsAreIndependent :
    (0x1235 : Word) &&& 0x000F = 0xABC5 &&& 0x000F ∧ (0x1235 : Word) &&& 0x0030 = 0xABFA &&& 0x0030 ∧
    (0x12C5 : Word) &&& 0x00C0 = 0xABFA &&& 0x00C0 ∧ (0x1F35 : Word) &&& 0x0F00 = 0xAFCA &&& 0x0F00 ∧
    (0xF235 : Word) &&& 0xF000 = 0xFBCA &&& 0xF000 := by decide
theorem witness_FieldMasksPartitionTheWord : (0x1023 : Word) ≠ 0x1022 := by decide
theorem witness_SelectRowInvertsEncode :
    (Instr.nop ⟨15, 14, 3, 2⟩).WellFormed ∧ Instr.nopSentinel.WellFormed ∧
    encode (.sum ⟨0, 0, 0, 1⟩) ≠ 0xFFFF ∧ encode (.sum ⟨0, 0, 0, 1⟩) ≠ 0x0000 := by decide
theorem witness_SelectRowFollowsTablePriority :
    ⟨"nop", 0x000F, 0x000F⟩ ∈ opcodeTable ∧ (0x103F : Word) &&& 0x000F = 0x000F := by decide
theorem witness_EqualRegisterFieldsRejected :
    (0xFFFE : Word).extractLsb' 8 4 = (0xFFFE : Word).extractLsb' 12 4 ∧ (0xFFFE : Word) ≠ 0x0000 ∧
    (0xFFFE : Word) ≠ 0xFFFF := by decide
theorem witness_LoadTypeThreeRejected :
    (0x10FF : Word).extractLsb' 4 2 = 3 ∧ (0x10EF : Word).extractLsb' 4 2 ≠ 3 := by decide
theorem witness_LegalSetClosedForm :
    (0xFE0F : Word).extractLsb' 8 4 ≠ (0xFE0F : Word).extractLsb' 12 4 ∧
    (0xFE0F : Word).extractLsb' 4 2 ≠ 3 := by decide
theorem witness_ParallelValidatorAgrees :
    (rawConditions 0x113F).registersEqual = true ∧ (0x113F : Word).extractLsb' 4 2 = 3 ∧
    (0x113F : Word) ≠ 0xFFFF ∧ (rawConditions 0xFFFF).isSentinel = true := by decide
theorem witness_OperationWordsDecode : (0x1023 : Word) ≠ 0xFFFF ∧ (0x1023 : Word) ≠ 0x0000 := by decide
theorem witness_DecodedRecordIsSound :
    ∃ d, decode .default 0xFEDC = .decoded d := ⟨_, rfl⟩
theorem witness_RegisterNames :
    (15 : BitVec 4) ≠ 12 ∧ (15 : BitVec 4) ≠ 13 ∧ (15 : BitVec 4) ≠ 14 ∧
    regName .default 15 = regName .default 15 := by decide
theorem witness_LoadTypeNoneIsNeverNamed : ∃ d, decode .default 0x10EF = .decoded d := ⟨_, rfl⟩
theorem witness_LoadLengthNamesAndWidths : (0x1023 : Word) &&& 0xFF3F = 0x10E3 &&& 0xFF3F := by decide
theorem witness_ReservedRegistersAreAccepted :
    (0xDC80 : Word).extractLsb' 8 4 = (12 : BitVec 4) ∧ (0xFE0F : Word).extractLsb' 8 4 = (14 : BitVec 4) ∧
    (0xDC80 : Word).extractLsb' 12 4 = (13 : BitVec 4) ∧
    (0xDC80 : Word).extractLsb' 8 4 ≠ (0xDC80 : Word).extractLsb' 12 4 ∧
    (0xFE0F : Word).extractLsb' 8 4 ≠ (0xFE0F : Word).extractLsb' 12 4 ∧
    (0xDC80 : Word).extractLsb' 4 2 ≠ 3 ∧ (0xFE0F : Word).extractLsb' 4 2 ≠ 3 := by decide
theorem witness_MessagesTellReasonsApart :
    render .default (.invalid .noOperationNoLoad) = render .default (.invalid .noOperationNoLoad) ∧
    ∃ d, decode .default 0x1023 = .decoded d := ⟨rfl, _, rfl⟩
theorem witness_EqualMessagesAreRefused : ∃ m, Messages.ofTexts "" "b" "c" "d" = some m := ⟨_, rfl⟩
theorem witness_LineLengthBounds :
    (∀ i, (loadLengthName .default i).length ≤ 7) ∧ (∀ i, (regName .default i).length ≤ 8) ∧
    ∃ d, decode .default 0xEDEE = .decoded d := ⟨by decide, by decide, _, rfl⟩
theorem witness_TextIsPrintable :
    ∀ s ∈ [Config.default.regName12, Config.default.regName13, Config.default.regName14,
      Config.default.lenName1, Config.default.lenName2, Config.default.lenName3,
      Config.default.messages.allZeroReserved, Config.default.messages.sourceEqualsDestination,
      Config.default.messages.noOperationNoLoad, Config.default.messages.operationLoadConflict],
      printable s = true := by decide

/-- Operands that meet the hypotheses of every `DecodesAs` (Arithmetic, Logic, Shift, Stack, Software
interrupt and Nop rows). -/
theorem witness_RowsDecode :
    (⟨15, 0, 3, 2⟩ : Operands).source ≠ (⟨15, 0, 3, 2⟩ : Operands).destination ∧
    (⟨15, 0, 3, 2⟩ : Operands).loadType ≠ 3 := by decide
/-- An accepted word for the two "only" clauses, and a neighbour for each list. -/
theorem witness_SentinelRowAnswers :
    (∀ r, decode .default 0xFFFF ≠ .invalid r) ∧
    (0xFFFF : Word).extractLsb' 8 4 = (0xFFFF : Word).extractLsb' 12 4 ∧
    (0xFFFF : Word).extractLsb' 0 4 = 15 ∧ (0xFFFF : Word).extractLsb' 4 2 = 3 ∧
    (0xFEFF : Word) ∈ [0x7FFF, 0xBFFF, 0xDFFF, 0xEFFF, 0xF7FF, 0xFBFF, 0xFDFF, 0xFEFF] ∧
    (0xFFFE : Word) ∈ [0xFF7F, 0xFFBF, 0xFFDF, 0xFFEF, 0xFFF7, 0xFFFB, 0xFFFD, 0xFFFE] :=
  ⟨fun r => by cases r <;> decide, by decide, by decide, by decide, by decide, by decide⟩
theorem witness_ReservedRowAnswers :
    (0x0001 : Word) ∈ [0x0001, 0x0002, 0x0004, 0x0008, 0x0010, 0x0020, 0x0040, 0x0080] ∧
    (0x8000 : Word) ∈ [0x0100, 0x0200, 0x0400, 0x0800, 0x1000, 0x2000, 0x4000, 0x8000] := by decide
/-- An operand of an ordinary word, and the two boundary operands of log entry 6. -/
theorem witness_EveryRowRejectsEqualRegisters :
    ∀ o ∈ [(⟨15, 15, 0, 0⟩ : Operands), ⟨0, 0, 0, 0⟩, ⟨15, 15, 3, 3⟩],
      o.source = o.destination := by decide
/-- The words of the two boundary terms are the whole-word rows' own (log entry 6). -/
theorem test_boundary_terms_have_no_word :
    selectRow (encode (.sum ⟨0, 0, 0, 0⟩)) = .reservedAllZero ∧
    selectRow (encode (.nop ⟨15, 15, 3, 3⟩)) = .nopSentinel := by decide
theorem witness_EveryRowRejectsLoadTypeThree :
    (⟨1, 0, 3, 3⟩ : Operands).source ≠ (⟨1, 0, 3, 3⟩ : Operands).destination ∧
    (⟨1, 0, 3, 3⟩ : Operands).loadType = 3 := by decide
theorem witness_InstructionFrame : ∃ t, exec (.pushStack ⟨15, 0, 1, 0⟩) State.reset = .next t := ⟨_, rfl⟩
theorem witness_StepRunsThePresentedInstruction : (Instr.pushStack ⟨15, 0, 1, 0⟩).WellFormed := by decide
theorem witness_StepAnswersWithTheCurrentOutputs : ∃ t, step State.reset = .next t := reset_answers

/-- Each of the four causes is met by a word a block at reset can be given. -/
theorem witness_StepRejectsExactlyByCause :
    (answer 0x0000).map (·.1) = some (.invalid .allZeroReserved) ∧
    (answer 0x1101).map (·.1) = some (.invalid .sourceEqualsDestination) ∧
    (answer 0xF0FF).map (·.1) = some (.invalid .noOperationNoLoad) ∧
    (answer 0x10BE).map (·.1) = some (.invalid .operationLoadConflict) := by decide
theorem witness_EarlierWordsLeaveNoTrace : ∃ t, step State.reset = .next t := reset_answers

/-- A block that has been used. -/
def used : State := (State.reset.present 0x1023).deliver (decode .default 0x1023)

/-- Two blocks whose consumers hold different answers, and two that differ in their parameters. -/
theorem witness_OutcomeDependsOnWordAlone :
    used ≠ used.present 0x1023 ∧ used.config = (used.present 0x1023).config ∧
    used.word = (used.present 0x1023).word ∧
    (∃ t, step used = .next t) ∧ (∃ t, step (used.present 0x1023) = .next t) ∧
    ∃ s' : State, s'.config ≠ used.config ∧ s'.word = used.word :=
  ⟨by decide, rfl, rfl, ⟨_, rfl⟩, ⟨_, rfl⟩,
    { used with config := { Config.default with regName12 := "r12" } }, by decide, rfl⟩

/-- Two callers, two copies, and a use of each by each. -/
theorem witness_CallersDoNotInterfere :
    (∀ s ∈ [State.reset, used], s.config = Config.default) ∧
    ∀ u ∈ [Use.mk 0 0 0x1023, Use.mk 1 1 0xFFFF, Use.mk 1 0 0x1101, Use.mk 0 1 0x1023],
      u.copy < [State.reset, used].length := by decide

/-- The default coding, and a presented word for each value of the `outcome` port. -/
theorem witness_PortsCarryTheOutcome :
    State.reset.config.outcomeCodes = ⟨0, 1, 2⟩ ∧ State.reset.config.reasonCodes = ⟨0, 1, 2, 3⟩ ∧
    ∀ u : Ports, ∀ w ∈ [(0x1023, 0), (0xFFFF, 1), (0x1030, 2)],
      ((State.reset.present w.1).ports u).outcome = w.2 := by
  refine ⟨rfl, rfl, fun u w hw => ?_⟩
  fin_cases hw <;> rfl

/-- Two uses on different words, with different answers. -/
theorem witness_OutputsFollowTheInputAtOnce :
    ∃ t t', step (State.reset.present 0x1023) = .next t ∧
      step (State.reset.present 0xFFFF) = .next t' ∧ t ≠ t' :=
  ⟨_, _, rfl, rfl, by decide⟩
theorem witness_TheBlockHasNoState : used.config = State.reset.config ∧ used ≠ State.reset :=
  ⟨rfl, by decide⟩

end Sys2Proof.Tests
end

