-- ==== Sys2Proof/Proofs/Step.lean ====
section
/-! SUPPORT. What one step does, said once: the answer of a presented word's row is `decode` of that
word with its line, and nothing else changes (R45, R75, R147). -/

namespace Sys2Proof.Machine

/-- The reason an operation row gives for load_type 3, by its operation value (R123, R124). -/
def noLoadReason (op : BitVec 4) : Reason :=
  if op = 15 then .noOperationNoLoad else .operationLoadConflict

/-- Every operation row runs as `runRow` on its own operation value and reason. -/
theorem exec_ofOperation (op : BitVec 4) (o : Operands) (s : State) :
    exec (Instr.ofOperation op o) s = runRow op (noLoadReason op) o s := by
  induction op using bitVec4_cases <;> rfl

/-- The decoder on a word that is not one of the two whole-word rows is that word's operation row. -/
theorem decode_eq_rowOutcome (c : Config) {w : Word} (hones : w ≠ 0xFFFF) (hzero : w ≠ 0x0000) :
    decode c w =
      rowOutcome c (extract w).operation (noLoadReason (extract w).operation) (operandsOf w) := by
  unfold decode validate rowOutcome noLoadReason
  rw [illegality_operandsOf, if_neg hones, if_neg hzero]
  by_cases hreg : (extract w).source = (extract w).destination
  · simp only [hreg, if_true]
  · by_cases hload : (extract w).loadType = 3
    · by_cases hop : (extract w).operation = 15 <;>
        simp only [hreg, hload, hop, ne_eq, not_true, not_false_iff, and_true, if_true, if_false]
    · simp only [hreg, hload, and_false, if_false, operandsOf_withOperation]

/-- The meaning of a word's row is to deliver the word's decoding, whatever stands on the port. -/
theorem exec_selectRow (w : Word) (s : State) :
    exec (selectRow w) s = .next (s.deliver (decode s.config w)) := by
  by_cases hones : w = 0xFFFF
  · subst hones; rfl
  by_cases hzero : w = 0x0000
  · subst hzero; rfl
  have hrow : selectRow w = Instr.ofOperation (extract w).operation (operandsOf w) := by
    rw [selectRow, if_neg hones, if_neg hzero]
  rw [hrow, exec_ofOperation, runRow_eq, decode_eq_rowOutcome _ hones hzero]

/-- A step always answers, and all it does is to deliver the decoding of the word on the port. -/
theorem step_eq (s : State) : step s = .next (s.deliver (decode s.config s.word)) :=
  exec_selectRow s.word s

/-- One use of the block on a presented word. -/
theorem step_present (s : State) (w : Word) :
    step (s.present w) = .next ((s.present w).deliver (decode s.config w)) :=
  step_eq (s.present w)

/-- Presenting a word leaves of a state its parameters alone. -/
theorem present_eq_of_config_eq {s t : State} (h : s.config = t.config) (w : Word) :
    s.present w = t.present w := by
  rw [State.present, State.present, h]

end Sys2Proof.Machine
end

