-- ==== Sys2Proof/Proofs/Run.lean ====
section
/-! SUPPORT. What a run gives its caller: the answer to each presented word, one at a time (R147). -/

namespace Sys2Proof.Machine

/-- The answer a block with parameters `c` gives to the word `w`: its decoding and its line (R10). -/
def answerTo (c : Config) (w : Word) : Answer where
  outcome := decode c w
  text := render c (decode c w)

/-- The first use of a run answers its own word, and the rest of the run goes on from there. -/
theorem runWords_cons (w : Word) (ws : List Word) (s : State) :
    runWords (w :: ws) s =
      some (answerTo s.config w) :: runWords ws ((s.present w).deliver (decode s.config w)) := by
  rw [runWords, step_present]
  rfl

/-- A run is the list of the answers to its words, from any state (R147). -/
theorem runWords_eq_map (ws : List Word) (s : State) :
    runWords ws s = ws.map fun w => some (answerTo s.config w) := by
  induction ws generalizing s with
  | nil => rfl
  | cons w ws ih =>
    rw [runWords_cons, ih, List.map_cons, State.deliver_config, State.present_config]

/-- The use at a position of a run answers the word presented at that position. -/
theorem runWords_getElem? {ws : List Word} {i : Nat} {w : Word} (h : ws[i]? = some w) (s : State) :
    (runWords ws s)[i]? = some (some (answerTo s.config w)) := by
  rw [runWords_eq_map, List.getElem?_map, h, Option.map_some]

end Sys2Proof.Machine
end

