-- ==== Sys2Proof/Proofs/BlockHasNoState.lean ====
section
/-! The block has no state (R10). -/

open Sys2Proof Sys2Proof.Machine

/-- Settles O55: presenting a word leaves only the parameters of what came before, and each use in a
run is answered from its own word, so both presentations read the same answer. -/
theorem theBlockHasNoState : Obligations.TheBlockHasNoState := by
  refine ⟨fun _ _ => rfl, fun _ _ w h => congrArg step (present_eq_of_config_eq h w), ?_⟩
  intro before between after w s run
  have first : (before ++ w :: between ++ w :: after)[before.length]? = some w := by simp
  have second :
      (before ++ w :: between ++ w :: after)[before.length + 1 + between.length]? = some w := by
    have hlen : before.length + 1 + between.length = (before ++ w :: between).length := by
      rw [List.length_append, List.length_cons, Nat.add_assoc, Nat.add_comm 1]
    rw [hlen, List.getElem?_append_right le_rfl, Nat.sub_self, List.getElem?_cons_zero]
  have hfirst := runWords_getElem? first s
  exact ⟨hfirst.trans (runWords_getElem? second s).symm, hfirst⟩
end

