-- ==== Sys2Proof/Proofs/Fields.lean ====
section
/-! SUPPORT. The fields of a word as its bit ranges (R31, R50), that they rebuild it (R53),
and the words that decode (R44). -/

namespace Sys2Proof

@[ext] theorem Fields.ext {f g : Fields} (hop : f.operation = g.operation)
    (hload : f.loadType = g.loadType) (hlen : f.loadLength = g.loadLength)
    (hsrc : f.source = g.source) (hdst : f.destination = g.destination) : f = g := by
  cases f
  cases g
  simp_all only

/-- Shifting a field down and masking it off takes its bit range, when the mask is all ones on the
field's width (R6). -/
theorem setWidth_ushiftRight_and_mask (w m : Word) (start len : Nat)
    (hm : m.setWidth len = BitVec.allOnes len) :
    ((w >>> start) &&& m).setWidth len = w.extractLsb' start len := by
  rw [BitVec.setWidth_and, hm, BitVec.and_allOnes]
  apply BitVec.eq_of_toNat_eq
  simp

theorem extract_operation (w : Word) : (extract w).operation = w.extractLsb' 0 4 :=
  setWidth_ushiftRight_and_mask w _ 0 4 rfl
theorem extract_loadType (w : Word) : (extract w).loadType = w.extractLsb' 4 2 :=
  setWidth_ushiftRight_and_mask w _ 4 2 rfl
theorem extract_loadLength (w : Word) : (extract w).loadLength = w.extractLsb' 6 2 :=
  setWidth_ushiftRight_and_mask w _ 6 2 rfl
theorem extract_source (w : Word) : (extract w).source = w.extractLsb' 8 4 :=
  setWidth_ushiftRight_and_mask w _ 8 4 rfl
theorem extract_destination (w : Word) : (extract w).destination = w.extractLsb' 12 4 :=
  setWidth_ushiftRight_and_mask w _ 12 4 rfl

/-- The fields of a word rebuild it: each bit of the word comes back from the one field it is in. -/
theorem reconstitute_extract (w : Word) : reconstitute (extract w) = w := by
  apply BitVec.eq_of_getLsbD_eq
  intro i hi
  rw [reconstitute, extract_operation, extract_loadType, extract_loadLength, extract_source,
    extract_destination]
  interval_cases i <;> simp

/-- No two words have the same fields. -/
theorem extract_injective : Function.Injective extract :=
  Function.LeftInverse.injective reconstitute_extract

namespace Machine

/-- A word whose registers differ and whose load_type is not 3 decodes to its own fields with their
names. The two whole-word values have equal register fields, so they are not among these words. -/
theorem decode_of_legal (c : Config) {w : Word}
    (hreg : (extract w).source ≠ (extract w).destination) (hload : (extract w).loadType ≠ 3) :
    decode c w = .decoded (resolve c (extract w)) := by
  have hones : w ≠ 0xFFFF := by rintro rfl; exact hreg rfl
  have hzero : w ≠ 0x0000 := by rintro rfl; exact hreg rfl
  rw [decode_eq_rowOutcome c hones hzero, rowOutcome, illegality_operandsOf, if_neg hreg,
    if_neg hload, operandsOf_withOperation]

/-- The register names table holds the configured names in its three reserved slots (R77). -/
theorem regName_of_reserved {c : Config} {i : BitVec 4} {name : String}
    (h : (i, name) ∈ [(12, c.regName12), (13, c.regName13), (14, c.regName14)]) :
    regName c i = name := by
  simp only [List.mem_cons, Prod.mk.injEq, List.not_mem_nil, or_false] at h
  obtain ⟨rfl, rfl⟩ | ⟨rfl, rfl⟩ | ⟨rfl, rfl⟩ := h <;> rfl

end Machine
end Sys2Proof
end

