-- ==== Sys2Proof/Proofs/Encoding.lean ====
section
/-! The encoding of the word (R32) and its reserved register indices (R42). -/

open Sys2Proof Sys2Proof.Machine

/-- Settles O25: such a word decodes to its own fields, and the name of a register field is looked up
in the slot of its index. -/
theorem reservedRegistersAreAccepted : Obligations.ReservedRegistersAreAccepted := by
  intro c w i name hslot hreg hload
  rw [← extract_loadType] at hload
  rw [← extract_source, ← extract_destination] at hreg ⊢
  have hdec := decode_of_legal c hreg hload
  constructor
  · rintro rfl
    exact ⟨_, hdec, rfl, regName_of_reserved hslot⟩
  · rintro rfl
    exact ⟨_, hdec, rfl, regName_of_reserved hslot⟩

/-- Settles O4: the masks are five closed words, and since the fields rebuild the word, two words
with the same five fields are one word. -/
theorem fieldMasksPartitionTheWord : Obligations.FieldMasksPartitionTheWord := by
  refine ⟨rfl, by decide, by decide, ?_, reconstitute_extract⟩
  intro w v hne
  by_contra hsame
  simp only [not_or, not_not] at hsame
  obtain ⟨hop, hload, hlen, hsrc, hdst⟩ := hsame
  exact hne (extract_injective (Fields.ext hop hload hlen hsrc hdst))
end

