-- ==== Sys2Proof/Proofs/Extraction.lean ====
section
/-! The bitfield extractor: each field is its bit range of the word (R50) and depends on no other
bit (R52). -/

namespace Sys2Proof

/-- Two words that agree under a mask have the same slice wherever the mask is all ones. -/
theorem extractLsb'_eq_of_and_mask_eq {w v m : Word} {start len : Nat}
    (hm : m.extractLsb' start len = BitVec.allOnes len) (hagree : w &&& m = v &&& m) :
    w.extractLsb' start len = v.extractLsb' start len := by
  have hslice := congrArg (BitVec.extractLsb' start len) hagree
  rwa [BitVec.extractLsb'_and, BitVec.extractLsb'_and, hm, BitVec.and_allOnes,
    BitVec.and_allOnes] at hslice

end Sys2Proof

open Sys2Proof Sys2Proof.Machine

/-- Settles O1: the five fields are their slices one by one, and the corner cases and the example are
three closed words. -/
theorem fieldsAreTheirBitRanges : Obligations.FieldsAreTheirBitRanges := by
  refine ⟨fun w => ?_, by decide, by decide, by decide⟩
  exact Fields.ext (extract_operation w) (extract_loadType w) (extract_loadLength w)
    (extract_source w) (extract_destination w)

/-- Settles O3: a field is the slice of the word where its in-place mask is all ones. -/
theorem fieldsAreIndependent : Obligations.FieldsAreIndependent := by
  intro w v
  simp only [extract_operation, extract_loadType, extract_loadLength, extract_source,
    extract_destination]
  exact ⟨extractLsb'_eq_of_and_mask_eq rfl, extractLsb'_eq_of_and_mask_eq rfl,
    extractLsb'_eq_of_and_mask_eq rfl, extractLsb'_eq_of_and_mask_eq rfl,
    extractLsb'_eq_of_and_mask_eq rfl⟩
end

