-- ==== Sys2Proof/Proofs/Rejections.lean ====
section
/-! SUPPORT. The decoder on the words it rejects. With `decode_of_legal` these are all the words:
equal register fields, else load_type 3, else legal (R68). -/

namespace Sys2Proof.Machine

/-- A word with equal register fields is one of the two whole-word values, or is rejected for them. -/
theorem decode_of_registers_eq (c : Config) {w : Word}
    (hreg : (extract w).source = (extract w).destination) :
    decode c w =
      if w = 0xFFFF then .nopSentinel
      else if w = 0x0000 then .invalid .allZeroReserved
      else .invalid .sourceEqualsDestination := by
  split
  next hones => subst hones; rfl
  next hones =>
    split
    next hzero => subst hzero; rfl
    next hzero =>
      rw [decode_eq_rowOutcome c hones hzero, rowOutcome, illegality_operandsOf, if_pos hreg]

/-- A word with load_type 3 and different registers is rejected for the reason of its row. -/
theorem decode_of_loadType_eq_three (c : Config) {w : Word}
    (hreg : (extract w).source ≠ (extract w).destination) (hload : (extract w).loadType = 3) :
    decode c w = .invalid (noLoadReason (extract w).operation) := by
  have hones : w ≠ 0xFFFF := by rintro rfl; exact hreg rfl
  have hzero : w ≠ 0x0000 := by rintro rfl; exact hreg rfl
  rw [decode_eq_rowOutcome c hones hzero, rowOutcome, illegality_operandsOf, if_neg hreg,
    if_pos hload]

/-- Resolution neither makes nor loses a sentinel. -/
theorem validate_eq_nopSentinel_iff_decode (c : Config) (w : Word) :
    validate w = .nopSentinel ↔ decode c w = .nopSentinel := by
  rw [decode]
  cases validate w <;> simp only [reduceCtorEq]

end Sys2Proof.Machine
end

