-- ==== Sys2Proof/Proofs/Validation.lean ====
section
/-! The validator: the sentinel outcome (R70) and the two load reasons (R73). -/

namespace Sys2Proof.Machine

/-- The sentinel outcome is that of 0xFFFF alone, since a word that is not one of the two whole-word
values is rejected or decoded. -/
theorem decode_eq_nopSentinel_iff (c : Config) (w : Word) :
    decode c w = .nopSentinel ↔ w = 0xFFFF := by
  constructor
  · intro h
    by_cases hreg : (extract w).source = (extract w).destination
    · rw [decode_of_registers_eq c hreg] at h
      by_contra hones
      rw [if_neg hones] at h
      split at h <;> cases h
    · by_cases hload : (extract w).loadType = 3
      · cases (decode_of_loadType_eq_three c hreg hload).symm.trans h
      · cases (decode_of_legal c hreg hload).symm.trans h
  · rintro rfl
    rfl

/-- Only load_type 3 is rejected for a load reason: without it a word whose registers differ
decodes, and the outcomes of equal registers are three others. -/
theorem loadType_eq_three_of_decode_eq_noLoadReason {c : Config} {w : Word} {op : BitVec 4}
    (h : decode c w = .invalid (noLoadReason op)) : (extract w).loadType = 3 := by
  by_contra hload
  by_cases hreg : (extract w).source = (extract w).destination
  · rw [decode_of_registers_eq c hreg, noLoadReason] at h
    split_ifs at h <;> cases h
  · cases (decode_of_legal c hreg hload).symm.trans h

end Sys2Proof.Machine

open Sys2Proof Sys2Proof.Machine

/-- Settles O11: for the decoder by the kinds of words it answers, for the validator through the
decoder. -/
theorem sentinelIsExclusive : Obligations.SentinelIsExclusive := by
  intro c w
  have hdec := decode_eq_nopSentinel_iff c w
  exact ⟨hdec, (validate_eq_nopSentinel_iff_decode c w).trans hdec⟩

/-- Settles O14: with load_type 3 a word is not 0x0000, so equal registers leave the sentinel and
their own reason, and different ones the reason of the row; either load reason needs load_type 3. -/
theorem loadTypeThreeRejected : Obligations.LoadTypeThreeRejected := by
  intro c w
  rw [← extract_operation, ← extract_loadType, ← extract_source, ← extract_destination]
  constructor
  · intro hload
    by_cases hreg : (extract w).source = (extract w).destination
    · have hzero : w ≠ 0x0000 := by rintro rfl; cases hload
      rw [decode_of_registers_eq c hreg, if_neg hzero, if_pos hreg]
    · have hones : w ≠ 0xFFFF := by rintro rfl; exact hreg rfl
      rw [decode_of_loadType_eq_three c hreg hload, if_neg hones, if_neg hreg, noLoadReason,
        apply_ite Outcome.invalid]
  · intro hload
    have hne (op : BitVec 4) : decode c w ≠ .invalid (noLoadReason op) :=
      mt loadType_eq_three_of_decode_eq_noLoadReason hload
    exact ⟨hne 15, hne 0⟩
end

