-- ==== Sys2Proof/Proofs/Instructions.lean ====
section
/-! SUPPORT. What every instruction does, said once over the eighteen rows: it delivers an outcome,
and nothing more (R45, R85, R128). -/

namespace Sys2Proof

/-- The eighteen instructions are the two whole-word rows and the sixteen operation rows (R45). -/
theorem Instr.eq_wholeWord_or_ofOperation (i : Instr) :
    i = .nopSentinel ∨ i = .reservedAllZero ∨ ∃ op o, i = Instr.ofOperation op o := by
  cases i with
  | nopSentinel => exact .inl rfl
  | reservedAllZero => exact .inr (.inl rfl)
  | sum o => exact .inr (.inr ⟨0, o, rfl⟩)
  | subtract o => exact .inr (.inr ⟨1, o, rfl⟩)
  | multiply o => exact .inr (.inr ⟨2, o, rfl⟩)
  | divide o => exact .inr (.inr ⟨3, o, rfl⟩)
  | and o => exact .inr (.inr ⟨4, o, rfl⟩)
  | or o => exact .inr (.inr ⟨5, o, rfl⟩)
  | nand o => exact .inr (.inr ⟨6, o, rfl⟩)
  | nor o => exact .inr (.inr ⟨7, o, rfl⟩)
  | xor o => exact .inr (.inr ⟨8, o, rfl⟩)
  | shiftLeft o => exact .inr (.inr ⟨9, o, rfl⟩)
  | shiftRight o => exact .inr (.inr ⟨10, o, rfl⟩)
  | rotateRight o => exact .inr (.inr ⟨11, o, rfl⟩)
  | popStack o => exact .inr (.inr ⟨12, o, rfl⟩)
  | pushStack o => exact .inr (.inr ⟨13, o, rfl⟩)
  | softwareInterrupt o => exact .inr (.inr ⟨14, o, rfl⟩)
  | nop o => exact .inr (.inr ⟨15, o, rfl⟩)

/-- Every instruction answers in every state, and all it does is to deliver some outcome. -/
theorem Machine.exists_exec_eq_deliver (i : Instr) (s : State) :
    ∃ o, exec i s = .next (s.deliver o) := by
  obtain rfl | rfl | ⟨op, o, rfl⟩ := i.eq_wholeWord_or_ofOperation
  · exact ⟨_, acceptSentinel_eq s⟩
  · exact ⟨_, reject_eq .allZeroReserved s⟩
  · exact ⟨_, (exec_ofOperation op o s).trans (runRow_eq op _ o s)⟩

end Sys2Proof
end

