-- ==== Sys2Proof/Proofs/Resolution.lean ====
section
/-! No instruction alters an entry of the tables (R86). -/

open Sys2Proof Sys2Proof.Machine

/-- Settles O42: the next state is the old one with an outcome delivered, and a delivery leaves the
block, the parameters and the port alone and renders the outcome it delivers. -/
theorem instructionFrame : Obligations.InstructionFrame := by
  intro i s t h
  obtain ⟨o, hdeliver⟩ := exists_exec_eq_deliver i s
  cases hdeliver.symm.trans h
  exact ⟨s.deliver_block o, s.deliver_config o, s.deliver_word o, o, s.deliver_answer o⟩
end

