-- ==== Sys2Proof/Proofs/Rendering.lean ====
section
/-! The line of an outcome: one equation for each arm of the renderer (R90), and the line of a resolved
record by its fields (R91). -/

namespace Sys2Proof.Machine

@[simp] theorem render_decoded (c : Config) (d : DecodedInstruction) :
    render c (.decoded d) = d.opName ++ " " ++ d.loadTypeName ++ " " ++ d.loadLengthName ++
      " wide with src: " ++ d.srcName ++ " into " ++ d.dstName := rfl
@[simp] theorem render_nopSentinel (c : Config) : render c .nopSentinel = "NOP" := rfl
@[simp] theorem render_invalid (c : Config) (r : Reason) :
    render c (.invalid r) = message c.messages r := rfl

/-- The renderer checks nothing: this is the line of a record resolved from any fields, illegal ones
included (R96). -/
theorem render_resolve (c : Config) (f : Fields) :
    render c (.decoded (resolve c f)) = opName f.operation ++ " " ++ loadTypeName f.loadType ++ " " ++
      loadLengthName c f.loadLength ++ " wide with src: " ++ regName c f.source ++ " into " ++
      regName c f.destination := by
  simp only [render_decoded, resolve_opName, resolve_loadTypeName, resolve_loadLengthName,
    resolve_srcName, resolve_dstName]

end Sys2Proof.Machine

open Sys2Proof Sys2Proof.Machine

/-- Settles O26: the arms are the renderer's equations, and each example is the line of a resolved
record, the word 0x1023 being legal. -/
theorem renderFormat : Obligations.RenderFormat := by
  refine ⟨render_decoded, render_nopSentinel, render_invalid, ?_, ?_⟩
  · rw [render_resolve]
    decide
  · have hdec : decode .default 0x1023 = .decoded (resolve .default (extract 0x1023)) :=
      decode_of_legal .default (by decide) (by decide)
    rw [hdec, render_resolve]
    decide
end

