-- ==== Sys2Proof/Proofs/Rows.lean ====
section
/-! SUPPORT. What the rows of the table answer: a legal operand of an operation row decodes to its
own fields and names (R100 to R115), and which word selects a row (R45). -/

namespace Sys2Proof

/-- The word of an operation row is made of its operation value and its operands (R31, R33). -/
theorem encode_ofOperation (op : BitVec 4) (o : Operands) :
    encode (Instr.ofOperation op o) = reconstitute (o.withOperation op) := by
  induction op using bitVec4_cases <;> rfl

/-- A word is the word of the row it selects. -/
theorem encode_selectRow (w : Word) : encode (selectRow w) = w := by
  by_cases hones : w = 0xFFFF
  · subst hones; rfl
  by_cases hzero : w = 0x0000
  · subst hzero; rfl
  rw [selectRow, if_neg hones, if_neg hzero, encode_ofOperation, operandsOf_withOperation,
    reconstitute_extract]

namespace Machine

/-- A legal operand of an operation row gives the record resolved from its five field values. -/
theorem rowOutcome_of_legal (c : Config) (op : BitVec 4) (noLoad : Reason) {o : Operands}
    (hreg : o.source ≠ o.destination) (hload : o.loadType ≠ 3) :
    rowOutcome c op noLoad o = .decoded (resolve c (o.withOperation op)) := by
  rw [rowOutcome, Operands.illegality, if_neg hreg, if_neg hload]

/-- No operation row has the sentinel outcome: it rejects or decodes. -/
theorem rowOutcome_ne_nopSentinel (c : Config) (op : BitVec 4) (noLoad : Reason) (o : Operands) :
    rowOutcome c op noLoad o ≠ .nopSentinel := by
  rw [rowOutcome]
  cases o.illegality noLoad <;> simp only [ne_eq, reduceCtorEq, not_false_eq_true]

/-- Each operation row decodes its legal operands under its own value and the name of that value. -/
theorem decodesAs_ofOperation (op : BitVec 4) :
    DecodesAs (Instr.ofOperation op) op (opName op) := by
  intro o s hreg hload
  rw [exec_ofOperation, runRow_eq, rowOutcome_of_legal _ _ _ hreg hload, State.deliver,
    render_resolve]
  rfl

end Machine
end Sys2Proof
end

