-- ==== Sys2Proof/Proofs/Operations.lean ====
section
/-! The sixteen operation rows (R100 to R115), each by `decodesAs_ofOperation` at its value. -/

open Sys2Proof Sys2Proof.Machine

/-- Settles O32: the rows of the operation values 0 to 3. -/
theorem arithmeticRowsDecode : Obligations.ArithmeticRowsDecode :=
  ⟨decodesAs_ofOperation 0, decodesAs_ofOperation 1, decodesAs_ofOperation 2,
    decodesAs_ofOperation 3⟩

/-- Settles O33: the rows of the operation values 4 to 8. -/
theorem logicRowsDecode : Obligations.LogicRowsDecode :=
  ⟨decodesAs_ofOperation 4, decodesAs_ofOperation 5, decodesAs_ofOperation 6,
    decodesAs_ofOperation 7, decodesAs_ofOperation 8⟩

/-- Settles O34: the rows of the operation values 9 to 11. -/
theorem shiftRowsDecode : Obligations.ShiftRowsDecode :=
  ⟨decodesAs_ofOperation 9, decodesAs_ofOperation 10, decodesAs_ofOperation 11⟩

/-- Settles O35: the rows of the operation values 12 and 13. -/
theorem stackRowsDecode : Obligations.StackRowsDecode :=
  ⟨decodesAs_ofOperation 12, decodesAs_ofOperation 13⟩

/-- Settles O36: the row of the operation value 14. -/
theorem softwareInterruptRowDecodes : Obligations.SoftwareInterruptRowDecodes :=
  decodesAs_ofOperation 14

/-- Settles O37: `nop` is the row of the operation value 15, and no operation row has the sentinel
outcome. A word that selected the boundary term would be the term's own word 0xFFFF, which selects
the sentinel. -/
theorem nopRowDecodes : Obligations.NopRowDecodes := by
  refine ⟨decodesAs_ofOperation 15, fun o s => ?_, fun w hw => ?_⟩
  · have hexec : exec (.nop o) s = .next (s.deliver (rowOutcome s.config 15 (noLoadReason 15) o)) :=
      (exec_ofOperation 15 o s).trans (runRow_eq 15 _ o s)
    exact ⟨_, _, hexec, s.deliver_answer _, rowOutcome_ne_nopSentinel _ _ _ o⟩
  · have hword : w = 0xFFFF := (encode_selectRow w).symm.trans (congrArg encode hw)
    subst hword
    cases hw
end

