-- ==== Sys2Proof/Proofs/WholeWord.lean ====
section
/-! The two whole-word rows and their neighbours at Hamming distance 1 (R116, R117). A fact about a
list of neighbours is evaluated on the list (`List.all`); `decide` would try all 65536 words. -/

namespace Sys2Proof.Machine

/-- A word that is neither whole-word value is rejected for equal register fields. -/
theorem decode_eq_sourceEqualsDestination (c : Config) {w : Word} (hones : w ≠ 0xFFFF)
    (hzero : w ≠ 0x0000) (hreg : (extract w).source = (extract w).destination) :
    decode c w = .invalid .sourceEqualsDestination := by
  rw [decode_of_registers_eq c hreg, if_neg hones, if_neg hzero]

/-- An accepted word with equal register fields is the sentinel. -/
theorem eq_ones_of_registers_eq {c : Config} {w : Word} (haccepted : ∀ r, decode c w ≠ .invalid r)
    (hreg : (extract w).source = (extract w).destination) : w = 0xFFFF := by
  by_contra hones
  by_cases hzero : w = 0x0000
  · subst hzero; exact haccepted _ rfl
  · exact haccepted _ (decode_eq_sourceEqualsDestination c hones hzero hreg)

/-- An accepted word with load_type 3, of any operation, is the sentinel. -/
theorem eq_ones_of_loadType_eq_three {c : Config} {w : Word}
    (haccepted : ∀ r, decode c w ≠ .invalid r) (hload : (extract w).loadType = 3) : w = 0xFFFF := by
  by_cases hreg : (extract w).source = (extract w).destination
  · exact eq_ones_of_registers_eq haccepted hreg
  · exact absurd (decode_of_loadType_eq_three c hreg hload) (haccepted _)

/-- The all-zero reason is that of 0x0000 alone: the other words are rejected for another reason or
accepted. -/
theorem decode_eq_allZeroReserved_iff (c : Config) (w : Word) :
    decode c w = .invalid .allZeroReserved ↔ w = 0x0000 := by
  constructor
  · intro h
    by_cases hreg : (extract w).source = (extract w).destination
    · rw [decode_of_registers_eq c hreg] at h
      by_contra hzero
      rw [if_neg hzero] at h
      split at h <;> cases h
    · by_cases hload : (extract w).loadType = 3
      · have hreason := (decode_of_loadType_eq_three c hreg hload).symm.trans h
        rw [noLoadReason] at hreason
        split at hreason <;> cases hreason
      · cases (decode_of_legal c hreg hload).symm.trans h
  · rintro rfl
    rfl

end Sys2Proof.Machine

open Sys2Proof Sys2Proof.Machine

/-- Settles O38: the row delivers the sentinel, and an accepted word with equal register fields or
load_type 3 is the sentinel's. A neighbour that differs in a register nibble keeps operation 15 and
load_type 3, one that differs in the low byte keeps the equal registers. -/
theorem sentinelRowAnswers : Obligations.SentinelRowAnswers := by
  refine ⟨acceptSentinel_eq, rfl, rfl, fun c w haccepted => ?_, decode_eq_nopSentinel_iff,
    fun c w hw => ?_, fun c w hw => ?_⟩
  · rw [← extract_loadType, ← extract_source, ← extract_destination]
    exact ⟨eq_ones_of_registers_eq haccepted, fun _ => eq_ones_of_loadType_eq_three haccepted⟩
  · have hfields : ∀ w ∈ [0x7FFF, 0xBFFF, 0xDFFF, 0xEFFF, 0xF7FF, 0xFBFF, 0xFDFF, 0xFEFF],
        (extract w).source ≠ (extract w).destination ∧ (extract w).loadType = 3 ∧
          (extract w).operation = 15 :=
      List.all_iff_forall_prop.mp rfl
    obtain ⟨hreg, hload, hop⟩ := hfields w hw
    rw [decode_of_loadType_eq_three c hreg hload, hop]
    rfl
  · have hfields : ∀ w ∈ [0xFF7F, 0xFFBF, 0xFFDF, 0xFFEF, 0xFFF7, 0xFFFB, 0xFFFD, 0xFFFE],
        w ≠ 0xFFFF ∧ w ≠ 0x0000 ∧ (extract w).source = (extract w).destination :=
      List.all_iff_forall_prop.mp rfl
    obtain ⟨hones, hzero, hreg⟩ := hfields w hw
    exact decode_eq_sourceEqualsDestination c hones hzero hreg

/-- Settles O39: the row delivers its own rejection, which is that of 0x0000 alone. A neighbour in
the low byte keeps the register fields 0 and 0; one in the high byte is legal, with operation,
load_type and load_length 0, whose names no parameter sets. -/
theorem reservedRowAnswers : Obligations.ReservedRowAnswers := by
  refine ⟨reject_eq .allZeroReserved, rfl, rfl, decode_eq_allZeroReserved_iff, fun c w hw => ?_,
    fun c w hw => ?_, ?_⟩
  · have hfields : ∀ w ∈ [0x0001, 0x0002, 0x0004, 0x0008, 0x0010, 0x0020, 0x0040, 0x0080],
        w ≠ 0xFFFF ∧ w ≠ 0x0000 ∧ (extract w).source = 0 ∧ (extract w).destination = 0 :=
      List.all_iff_forall_prop.mp rfl
    obtain ⟨hones, hzero, hsrc, hdst⟩ := hfields w hw
    rw [← extract_source, ← extract_destination]
    exact ⟨hsrc, hdst,
      decode_eq_sourceEqualsDestination c hones hzero (hsrc.trans hdst.symm)⟩
  · have hfields : ∀ w ∈ [0x0100, 0x0200, 0x0400, 0x0800, 0x1000, 0x2000, 0x4000, 0x8000],
        (extract w).source ≠ (extract w).destination ∧ (extract w).operation = 0 ∧
          (extract w).loadType = 0 ∧ (extract w).loadLength = 0 :=
      List.all_iff_forall_prop.mp rfl
    obtain ⟨hreg, hop, hload, hlen⟩ := hfields w hw
    have hdec : decode c w = .decoded (resolve c (extract w)) :=
      decode_of_legal c hreg (by rw [hload]; decide)
    rw [← extract_source, ← extract_destination]
    refine ⟨hreg, _, hdec, ?_, ?_, ?_⟩
    · rw [resolve_opName, hop]; rfl
    · rw [resolve_loadTypeName, hload]; rfl
    · rw [resolve_loadLengthName, hlen]; rfl
  · have hdec : decode .default 0x0100 = .decoded (resolve .default (extract 0x0100)) :=
      decode_of_legal .default (by decide) (by decide)
    rw [hdec, render_resolve]
    decide
end

