-- ==== Sys2Proof/Proofs/Priority.lean ====
section
/-! The validator's conditions side by side, and the priority encoder over them (R126, R127). -/

namespace Sys2Proof.Machine

/-! When each wire is up, said of the word and its fields. -/

theorem isSentinel_iff (w : Word) : (rawConditions w).isSentinel = true ↔ w = 0xFFFF :=
  beq_iff_eq

theorem isAllZero_iff (w : Word) : (rawConditions w).isAllZero = true ↔ w = 0x0000 :=
  beq_iff_eq

theorem registersEqual_iff (w : Word) :
    (rawConditions w).registersEqual = true ↔ (extract w).source = (extract w).destination :=
  beq_iff_eq

theorem nopWithoutLoad_iff (w : Word) :
    (rawConditions w).nopWithoutLoad = true ↔
      (extract w).operation = 15 ∧ (extract w).loadType = 3 := by
  simp only [rawConditions, Bool.and_eq_true, beq_iff_eq]

theorem operationWithoutLoad_iff (w : Word) :
    (rawConditions w).operationWithoutLoad = true ↔
      (extract w).operation ≠ 15 ∧ (extract w).loadType = 3 := by
  simp only [rawConditions, Bool.and_eq_true, beq_iff_eq, bne_iff_ne]

/-- The encoder asks for the wires in the order in which the validator makes its checks. -/
theorem validateInParallel_eq_validate (w : Word) : validateInParallel w = validate w := by
  simp only [validateInParallel, priorityEncode, cond_eq_ite, isSentinel_iff, isAllZero_iff,
    registersEqual_iff, nopWithoutLoad_iff, operationWithoutLoad_iff, validate]

/-- The wires of steps 5 and 6 ask the opposite of the operation. -/
theorem not_nopWithoutLoad_and_operationWithoutLoad (w : Word) :
    ¬ ((rawConditions w).nopWithoutLoad = true ∧
      (rawConditions w).operationWithoutLoad = true) := by
  rw [nopWithoutLoad_iff, operationWithoutLoad_iff]
  rintro ⟨⟨hnop, -⟩, hother, -⟩
  exact hother hnop

/-- Load_type 3 raises the wire of step 5 or that of step 6, by the operation. -/
theorem nopWithoutLoad_or_operationWithoutLoad {w : Word} (hload : (extract w).loadType = 3) :
    (rawConditions w).nopWithoutLoad = true ∨ (rawConditions w).operationWithoutLoad = true := by
  rw [nopWithoutLoad_iff, operationWithoutLoad_iff]
  exact (eq_or_ne (extract w).operation 15).imp (⟨·, hload⟩) (⟨·, hload⟩)

/-- Past the two whole-word checks, equal register fields are reported before any load_type. -/
theorem validate_eq_sourceEqualsDestination {w : Word} (hones : w ≠ 0xFFFF) (hzero : w ≠ 0x0000)
    (hreg : (extract w).source = (extract w).destination) :
    validate w = .invalid .sourceEqualsDestination := by
  rw [validate, if_neg hones, if_neg hzero]
  exact if_pos hreg

end Sys2Proof.Machine

open Sys2Proof Sys2Proof.Machine

/-- Settles O18: the encoder by the order of its wires, the overlaps wire by wire. A word with
load_type 3 is not 0x0000, so with equal registers only the sentinel escapes step 4. -/
theorem parallelValidatorAgrees : Obligations.ParallelValidatorAgrees := by
  refine ⟨validateInParallel_eq_validate, not_nopWithoutLoad_and_operationWithoutLoad,
    ⟨rfl, rfl, rfl⟩, ⟨rfl, rfl⟩, fun w hreg hload => ?_, fun w hones => ?_⟩
  · rw [← extract_loadType] at hload
    rw [registersEqual_iff] at hreg
    have hzero : w ≠ 0x0000 := by rintro rfl; cases hload
    exact ⟨nopWithoutLoad_or_operationWithoutLoad hload,
      fun hones => validate_eq_sourceEqualsDestination hones hzero hreg⟩
  · rw [isSentinel_iff] at hones
    subst hones
    rfl
end

