-- ==== Sys2Proof/Proofs/Reuse.lean ====
section
/-! One block used again: no earlier word leaves a trace (R143), and a run is the list of the answers
to its words (R147). -/

namespace Sys2Proof.Machine

/-- What a step that answers does, as an inversion: it delivers the decoding of the word on the port. -/
theorem eq_deliver_of_step {s t : State} (h : step s = .next t) :
    t = s.deliver (decode s.config s.word) := by
  rw [step_eq] at h
  exact (Host.Outcome.next.inj h).symm

end Sys2Proof.Machine

open Sys2Proof Sys2Proof.Machine

/-- Settles O49: a step writes only the consumer's answer, so the next word is presented to the same
parameters, and a second step on the same word delivers the same answer over the first. -/
theorem earlierWordsLeaveNoTrace : Obligations.EarlierWordsLeaveNoTrace := by
  constructor
  case left =>
    intro s t w h
    have hconfig : t.config = s.config := by rw [eq_deliver_of_step h, State.deliver_config]
    exact congrArg step (present_eq_of_config_eq hconfig w)
  case right =>
    intro s t h
    rw [eq_deliver_of_step h, step_eq, State.deliver_config, State.deliver_word,
      State.deliver_deliver]

/-- Settles O51: the answer to a word is its decoding with its line. -/
theorem runIsMapDecode : Obligations.RunIsMapDecode :=
  runWords_eq_map
end

