-- ==== Sys2Proof/Proofs/Callers.lean ====
section
/-! Several callers using copies of the block in any interleaving (R144). -/

namespace Sys2Proof.Machine

/-- The first use steps its own copy: the word's answer goes to the use's caller, and the other copies
stay as they are. -/
theorem runUses_cons {u : Use} {blocks : List State} {s : State} (h : blocks[u.copy]? = some s)
    (us : List Use) :
    runUses (u :: us) blocks =
      (u.caller, some (answerTo s.config u.word)) ::
        runUses us (blocks.set u.copy ((s.present u.word).deliver (decode s.config u.word))) := by
  rw [runUses, h]
  simp only [step_present]
  rfl

/-- Copies of a block with parameters `c` answer every use from its own word, in the order of the
uses: a step keeps its copy's parameters, so the copies stay copies of that block. -/
theorem runUses_eq_map {c : Config} {uses : List Use} {blocks : List State}
    (hconfig : ∀ s ∈ blocks, s.config = c) (hcopy : ∀ u ∈ uses, u.copy < blocks.length) :
    runUses uses blocks = uses.map fun u => (u.caller, some (answerTo c u.word)) := by
  induction uses generalizing blocks with
  | nil => rfl
  | cons u us ih =>
    obtain ⟨hu, hus⟩ := List.forall_mem_cons.mp hcopy
    have hs : blocks[u.copy].config = c := hconfig _ (List.getElem_mem hu)
    rw [runUses_cons (List.getElem?_eq_getElem hu), hs, List.map_cons, ih]
    case hconfig =>
      intro s hmem
      rcases List.mem_or_eq_of_mem_set hmem with hold | rfl
      · exact hconfig s hold
      · exact hs
    case hcopy =>
      intro v hv
      rw [List.length_set]
      exact hus v hv

end Sys2Proof.Machine

open Sys2Proof Sys2Proof.Machine

/-- Settles O52: every use is answered from its own word and under its caller's name, so picking out a
caller's answers is picking out the caller's uses. -/
theorem callersDoNotInterfere : Obligations.CallersDoNotInterfere := by
  intro c uses blocks k hconfig hcopy
  rw [runUses_eq_map hconfig hcopy, List.filter_map, List.map_map]
  rfl
end

