-- ==== Sys2Proof/Proofs/RoundTrip.lean ====
section
/-! Words to fields and instructions and back: the printed formulas of the fields (R51), the fields of
a reconstituted word (R53), and the row an instruction's own word selects (R45). -/

namespace Sys2Proof

/-- Narrowing a masked word to the mask's width drops only zero bits (R51). -/
theorem setWidth_setWidth_and_mask (x m : Word) {len : Nat} (hm : m.toNat < 2 ^ len) :
    ((x &&& m).setWidth len).setWidth 16 = x &&& m := by
  have hlt : x.toNat &&& m.toNat < 2 ^ len := Nat.and_lt_two_pow _ hm
  apply BitVec.eq_of_toNat_eq
  rw [BitVec.toNat_setWidth, BitVec.toNat_setWidth, BitVec.toNat_and, Nat.mod_eq_of_lt hlt]
  exact Nat.mod_eq_of_lt (x &&& m).isLt

/-- The fields of a word made of five values are those values: no field's bits reach another's. -/
theorem extract_reconstitute (f : Fields) : extract (reconstitute f) = f := by
  ext i hi <;>
    simp only [extract_operation, extract_loadType, extract_loadLength, extract_source,
      extract_destination, reconstitute] <;>
    interval_cases i <;> simp

/-- A row's operands come back from the word made of them. -/
theorem operandsOf_reconstitute (op : BitVec 4) (o : Operands) :
    operandsOf (reconstitute (o.withOperation op)) = o := by
  rw [operandsOf, extract_reconstitute]
  rfl

/-- A word with different register fields is neither whole-word value, both of which have equal
ones. -/
theorem ne_wholeWord_of_registers_ne {w : Word} (hreg : (extract w).source ≠ (extract w).destination) :
    w ≠ 0xFFFF ∧ w ≠ 0x0000 :=
  ⟨by rintro rfl; exact hreg rfl, by rintro rfl; exact hreg rfl⟩

/-- A word that is neither whole-word value selects the row of its operation bits. -/
theorem selectRow_of_ne {w : Word} (hones : w ≠ 0xFFFF) (hzero : w ≠ 0x0000) :
    selectRow w = Instr.ofOperation (extract w).operation (operandsOf w) := by
  rw [selectRow, if_neg hones, if_neg hzero]

/-- An operation row whose word is neither whole-word value is the row its word selects. -/
theorem selectRow_encode_ofOperation {op : BitVec 4} {o : Operands}
    (hones : encode (Instr.ofOperation op o) ≠ 0xFFFF)
    (hzero : encode (Instr.ofOperation op o) ≠ 0x0000) :
    selectRow (encode (Instr.ofOperation op o)) = Instr.ofOperation op o := by
  rw [selectRow_of_ne hones hzero, encode_ofOperation, operandsOf_reconstitute, extract_reconstitute]
  rfl

/-- An instruction whose word is neither whole-word value comes back from its word. -/
theorem selectRow_encode_of_ne {i : Instr} (hones : encode i ≠ 0xFFFF) (hzero : encode i ≠ 0x0000) :
    selectRow (encode i) = i := by
  obtain rfl | rfl | ⟨op, o, rfl⟩ := i.eq_wholeWord_or_ofOperation
  · exact absurd rfl hones
  · exact absurd rfl hzero
  · exact selectRow_encode_ofOperation hones hzero

/-- Each operation row has the two constraints, with the load reason of its operation value (R45). -/
theorem illegality_ofOperation (op : BitVec 4) (o : Operands) :
    (Instr.ofOperation op o).illegality = o.illegality (Machine.noLoadReason op) := by
  induction op using bitVec4_cases <;> rfl

/-- Operands meet the two constraints when their registers differ and their load_type is not 3. -/
theorem Operands.illegality_eq_none_iff (o : Operands) (r : Reason) :
    o.illegality r = none ↔ o.source ≠ o.destination ∧ o.loadType ≠ 3 := by
  rw [Operands.illegality]
  split_ifs with hreg hload
  · exact iff_of_false nofun fun h => h.1 hreg
  · exact iff_of_false nofun fun h => h.2 hload
  · exact iff_of_true rfl ⟨hreg, hload⟩

/-- A legal instruction comes back from its word: a legal operation row has different registers, so
its word is neither whole-word value. -/
theorem selectRow_encode {i : Instr} (hi : i.WellFormed) : selectRow (encode i) = i := by
  obtain rfl | rfl | ⟨op, o, rfl⟩ := i.eq_wholeWord_or_ofOperation
  · rfl
  · rfl
  · rw [Instr.WellFormed, illegality_ofOperation, Operands.illegality_eq_none_iff] at hi
    have hreg : (extract (encode (Instr.ofOperation op o))).source ≠
        (extract (encode (Instr.ofOperation op o))).destination := by
      rw [encode_ofOperation, extract_reconstitute]
      exact hi.1
    obtain ⟨hones, hzero⟩ := ne_wholeWord_of_registers_ne hreg
    exact selectRow_encode_ofOperation hones hzero

end Sys2Proof

open Sys2Proof Sys2Proof.Machine

/-- Settles O2: the first formula of a field is its definition, with nothing lost in narrowing, and
the second shifts the word and its in-place mask alike. -/
theorem fieldsAreMaskAndShift : Obligations.FieldsAreMaskAndShift := by
  intro w
  have hop : (extract w).operation.setWidth 16 = w &&& 0x000F :=
    setWidth_setWidth_and_mask w _ (by decide)
  have hload : (extract w).loadType.setWidth 16 = (w >>> 4) &&& 0x3 :=
    setWidth_setWidth_and_mask _ _ (by decide)
  have hlen : (extract w).loadLength.setWidth 16 = (w >>> 6) &&& 0x3 :=
    setWidth_setWidth_and_mask _ _ (by decide)
  have hsrc : (extract w).source.setWidth 16 = (w >>> 8) &&& 0xF :=
    setWidth_setWidth_and_mask _ _ (by decide)
  have hdst : (extract w).destination.setWidth 16 = (w >>> 12) &&& 0xF :=
    setWidth_setWidth_and_mask _ _ (by decide)
  have hshift (m : Word) (k : Nat) : (w &&& m) >>> k = w >>> k &&& m >>> k :=
    BitVec.ushiftRight_and_distrib w m k
  have htop : w >>> 12 = w >>> 12 &&& 0xF := by
    have h := hshift 0xFFFF 12
    rwa [show w &&& 0xFFFF = w from BitVec.and_allOnes] at h
  exact ⟨hop, hop.trans (by rw [BitVec.ushiftRight_zero]), hload, hload.trans (hshift 0x0030 4).symm,
    hlen, hlen.trans (hshift 0x00C0 6).symm, hsrc, hsrc.trans (hshift 0x0F00 8).symm, hdst,
    hdst.trans htop.symm⟩

/-- Settles O6: the legal instructions by their different registers, any others by the two words
they are not allowed to have. -/
theorem selectRowInvertsEncode : Obligations.SelectRowInvertsEncode :=
  ⟨fun _ => selectRow_encode, rfl, fun _ => selectRow_encode_of_ne⟩

/-- Settles O7: a word is the word of the row it selects. -/
theorem encodeInvertsSelectRow : Obligations.EncodeInvertsSelectRow :=
  encode_selectRow

/-- Settles O5: `zeroExtend` is `setWidth`, and the two round trips make `extract` a bijection. -/
theorem reconstitutionIsExact : Obligations.ReconstitutionIsExact :=
  ⟨fun _ => rfl, reconstitute_extract, extract_reconstitute,
    Function.bijective_iff_has_inverse.mpr ⟨reconstitute, reconstitute_extract, extract_reconstitute⟩,
    rfl⟩

/-- Settles O9: eight closed words. -/
theorem specWordsSelectTheirRows : Obligations.SpecWordsSelectTheirRows := by
  refine ⟨rfl, rfl, rfl, rfl, rfl, rfl, rfl, rfl⟩
end

