-- ==== Sys2Proof/Proofs/Legality.lean ====
section
/-! The decoder and the validator by kinds of word: which words are rejected for which reason, and what
the others decode to (R68, R71, R72, R75, R81). -/

namespace Sys2Proof.Machine

/-- The five kinds of word, with what the decoder answers to each (R68, R75). -/
theorem decode_cases (c : Config) (w : Word) :
    (w = 0xFFFF ∧ decode c w = .nopSentinel) ∨
    (w = 0x0000 ∧ decode c w = .invalid .allZeroReserved) ∨
    (w ≠ 0xFFFF ∧ w ≠ 0x0000 ∧ (extract w).source = (extract w).destination ∧
      decode c w = .invalid .sourceEqualsDestination) ∨
    ((extract w).source ≠ (extract w).destination ∧ (extract w).loadType = 3 ∧
      decode c w = .invalid (noLoadReason (extract w).operation)) ∨
    ((extract w).source ≠ (extract w).destination ∧ (extract w).loadType ≠ 3 ∧
      decode c w = .decoded (resolve c (extract w))) := by
  by_cases hones : w = 0xFFFF
  · subst hones; exact .inl ⟨rfl, rfl⟩
  by_cases hzero : w = 0x0000
  · subst hzero; exact .inr (.inl ⟨rfl, rfl⟩)
  by_cases hreg : (extract w).source = (extract w).destination
  · exact .inr (.inr (.inl ⟨hones, hzero, hreg,
      decode_eq_sourceEqualsDestination c hones hzero hreg⟩))
  by_cases hload : (extract w).loadType = 3
  · exact .inr (.inr (.inr (.inl ⟨hreg, hload, decode_of_loadType_eq_three c hreg hload⟩)))
  · exact .inr (.inr (.inr (.inr ⟨hreg, hload, decode_of_legal c hreg hload⟩)))

/-- The load reason of a row is one of two, by the operation value. -/
theorem noLoadReason_eq_noOperationNoLoad_iff (op : BitVec 4) :
    noLoadReason op = .noOperationNoLoad ↔ op = 15 := by
  rw [noLoadReason]
  split
  next hop => exact iff_of_true rfl hop
  next hop => exact iff_of_false nofun hop

theorem noLoadReason_eq_operationLoadConflict_iff (op : BitVec 4) :
    noLoadReason op = .operationLoadConflict ↔ op ≠ 15 := by
  rw [noLoadReason]
  split
  next hop => exact iff_of_false nofun (not_not_intro hop)
  next hop => exact iff_of_true rfl hop

/-- The load reasons are none of the other two. -/
theorem noLoadReason_ne_sourceEqualsDestination (op : BitVec 4) :
    noLoadReason op ≠ .sourceEqualsDestination := by
  rw [noLoadReason]
  split <;> exact nofun

/-- Equal register fields are the reason of every word that has them but the two whole-word values. -/
theorem decode_eq_sourceEqualsDestination_iff (c : Config) (w : Word) :
    decode c w = .invalid .sourceEqualsDestination ↔
      w ≠ 0xFFFF ∧ w ≠ 0x0000 ∧ (extract w).source = (extract w).destination := by
  constructor
  · intro h
    obtain ⟨-, hdec⟩ | ⟨-, hdec⟩ | ⟨hones, hzero, hreg, -⟩ | ⟨-, -, hdec⟩ | ⟨-, -, hdec⟩ :=
      decode_cases c w
    · cases hdec.symm.trans h
    · cases hdec.symm.trans h
    · exact ⟨hones, hzero, hreg⟩
    · exact absurd (Outcome.invalid.inj (hdec.symm.trans h)) (noLoadReason_ne_sourceEqualsDestination _)
    · cases hdec.symm.trans h
  · rintro ⟨hones, hzero, hreg⟩
    exact decode_eq_sourceEqualsDestination c hones hzero hreg

/-- A load reason is given for load_type 3 and different registers, by the row whose reason it is. -/
theorem decode_eq_noLoadReason_iff (c : Config) (w : Word) (op : BitVec 4) :
    decode c w = .invalid (noLoadReason op) ↔
      (extract w).source ≠ (extract w).destination ∧ (extract w).loadType = 3 ∧
        noLoadReason (extract w).operation = noLoadReason op := by
  constructor
  · intro h
    have hload := loadType_eq_three_of_decode_eq_noLoadReason h
    have hreg : (extract w).source ≠ (extract w).destination := fun hreg => by
      rw [decode_of_registers_eq c hreg, noLoadReason] at h
      split_ifs at h <;> cases h
    rw [decode_of_loadType_eq_three c hreg hload] at h
    exact ⟨hreg, hload, Outcome.invalid.inj h⟩
  · rintro ⟨hreg, hload, hreason⟩
    rw [decode_of_loadType_eq_three c hreg hload, hreason]

theorem decode_eq_noOperationNoLoad_iff (c : Config) (w : Word) :
    decode c w = .invalid .noOperationNoLoad ↔
      (extract w).source ≠ (extract w).destination ∧ (extract w).operation = 15 ∧
        (extract w).loadType = 3 := by
  have h := decode_eq_noLoadReason_iff c w 15
  rwa [show noLoadReason 15 = .noOperationNoLoad from rfl, noLoadReason_eq_noOperationNoLoad_iff,
    and_comm (a := _ = (3 : BitVec 2))] at h

theorem decode_eq_operationLoadConflict_iff (c : Config) (w : Word) :
    decode c w = .invalid .operationLoadConflict ↔
      (extract w).source ≠ (extract w).destination ∧ (extract w).operation ≠ 15 ∧
        (extract w).loadType = 3 := by
  have h := decode_eq_noLoadReason_iff c w 0
  rwa [show noLoadReason 0 = .operationLoadConflict from rfl,
    noLoadReason_eq_operationLoadConflict_iff, and_comm (a := _ = (3 : BitVec 2))] at h

/-- A decoded record is the word's own fields with their names, and the word is legal. -/
theorem eq_resolve_of_decode {c : Config} {w : Word} {d : DecodedInstruction}
    (h : decode c w = .decoded d) :
    (extract w).source ≠ (extract w).destination ∧ (extract w).loadType ≠ 3 ∧
      d = resolve c (extract w) := by
  obtain ⟨-, hdec⟩ | ⟨-, hdec⟩ | ⟨-, -, -, hdec⟩ | ⟨-, -, hdec⟩ | ⟨hreg, hload, hdec⟩ :=
    decode_cases c w
  case inr.inr.inr.inr => exact ⟨hreg, hload, Outcome.decoded.inj (h.symm.trans hdec)⟩
  all_goals cases hdec.symm.trans h

/-- The legal set (R44). -/
theorem exists_decode_eq_decoded_iff (c : Config) (w : Word) :
    (∃ d, decode c w = .decoded d) ↔
      (extract w).source ≠ (extract w).destination ∧ (extract w).loadType ≠ 3 := by
  constructor
  · rintro ⟨d, h⟩
    obtain ⟨hreg, hload, -⟩ := eq_resolve_of_decode h
    exact ⟨hreg, hload⟩
  · rintro ⟨hreg, hload⟩
    exact ⟨_, decode_of_legal c hreg hload⟩

/-- Resolution neither makes nor loses a rejection. -/
theorem validate_eq_invalid_iff_decode (c : Config) (w : Word) (r : Reason) :
    validate w = .invalid r ↔ decode c w = .invalid r := by
  rw [decode]
  cases validate w <;> simp only [reduceCtorEq, Verdict.invalid.injEq, Outcome.invalid.injEq]

/-- A legal verdict is one that resolution makes a record of. -/
theorem isLegal_validate_iff_decode (c : Config) (w : Word) :
    (validate w).isLegal = true ↔ ∃ d, decode c w = .decoded d := by
  rw [decode]
  cases validate w <;>
    simp only [Verdict.isLegal, reduceCtorEq, exists_false, Outcome.decoded.injEq, exists_eq']

end Sys2Proof.Machine

open Sys2Proof Sys2Proof.Machine

/-- Settles O12: for the decoder by the kinds of words, for the validator through the decoder. -/
theorem allZeroReasonIsExclusive : Obligations.AllZeroReasonIsExclusive := by
  intro c w
  have hdec := decode_eq_allZeroReserved_iff c w
  exact ⟨hdec, (validate_eq_invalid_iff_decode c w _).trans hdec⟩

/-- Settles O13: the iff on the fields, read on the word's slices. -/
theorem equalRegisterFieldsRejected : Obligations.EqualRegisterFieldsRejected := by
  intro c w
  rw [← extract_source, ← extract_destination, decode_eq_sourceEqualsDestination_iff]
  exact ⟨fun ⟨hones, hzero, hreg⟩ => ⟨hreg, hzero, hones⟩,
    fun ⟨hreg, hzero, hones⟩ => ⟨hones, hzero, hreg⟩⟩

/-- Settles O19: outside the two whole-word values, the word's kind is found by its registers, then
its load_type, then its operation. -/
theorem operationWordsDecode : Obligations.OperationWordsDecode := by
  intro c w hones hzero
  simp only [← extract_operation, ← extract_loadType, ← extract_loadLength, ← extract_source,
    ← extract_destination]
  by_cases hreg : (extract w).source = (extract w).destination
  · rw [if_pos hreg, decode_eq_sourceEqualsDestination c hones hzero hreg]
  rw [if_neg hreg]
  by_cases hload : (extract w).loadType = 3
  · rw [if_pos hload, decode_of_loadType_eq_three c hreg hload, noLoadReason,
      apply_ite Outcome.invalid]
  · rw [if_neg hload, decode_of_legal c hreg hload]
    rfl

/-- Settles O20: the record is resolved from the fields of a legal word, which rebuild it, and 0x1023
is legal. -/
theorem decodedRecordIsSound : Obligations.DecodedRecordIsSound := by
  refine ⟨fun c w d h => ?_, decode_of_legal .default (by decide) (by decide)⟩
  obtain ⟨hreg, hload, rfl⟩ := eq_resolve_of_decode h
  have hbelow : ∀ t : BitVec 2, t ≠ 3 → t = 0 ∨ t = 1 ∨ t = 2 := by decide
  exact ⟨hreg, hbelow _ hload, rfl, rfl, rfl, rfl, rfl, reconstitute_extract w⟩
end

