-- ==== Sys2Proof/Proofs/OpcodeTable.lean ====
section
/-! The opcode table: its priority (R45) and its constraints against the validator (R68). -/

namespace Sys2Proof

/-- The mnemonic of an operation row does not depend on its operands. -/
theorem mnemonic_ofOperation (op : BitVec 4) (o : Operands) :
    (Instr.ofOperation op o).mnemonic = (Instr.ofOperation op ⟨0, 0, 0, 0⟩).mnemonic := by
  induction op using bitVec4_cases <;> rfl

/-- The table has a row for the mnemonic of each operation, with the operation value for its
pattern. -/
theorem operationRow_mem_opcodeTable : ∀ op : BitVec 4,
    ⟨(Instr.ofOperation op ⟨0, 0, 0, 0⟩).mnemonic, op.setWidth 16, 0x000F⟩ ∈ opcodeTable := by
  decide

/-- Every instruction's word matches the table row of its mnemonic. -/
theorem rowMatch (i : Instr) : Laws.RowMatch.Statement i := by
  obtain rfl | rfl | ⟨op, o, rfl⟩ := i.eq_wholeWord_or_ofOperation
  · exact Laws.RowMatch.nopSentinel
  · exact Laws.RowMatch.reservedAllZero
  · exact Laws.RowMatch.of_operation op _ (encode_ofOperation op o)
      (mnemonic_ofOperation op o) (operationRow_mem_opcodeTable op)

/-- A row of the table has the operation mask or stands for one whole-word value. -/
theorem mask_or_pattern_of_mem_opcodeTable {r : Row} (hr : r ∈ opcodeTable) :
    r.mask = 0x000F ∨ r.mask = 0xFFFF ∧ (r.pattern = 0xFFFF ∨ r.pattern = 0x0000) := by
  have hall : ∀ r ∈ opcodeTable,
      r.mask = 0x000F ∨ r.mask = 0xFFFF ∧ (r.pattern = 0xFFFF ∨ r.pattern = 0x0000) := by decide
  exact hall r hr

/-- A row that matches a word which is neither whole-word value is an operation row. -/
theorem mask_eq_of_matches {w : Word} (hones : w ≠ 0xFFFF) (hzero : w ≠ 0x0000) {r : Row}
    (hr : r ∈ opcodeTable) (hmatch : w &&& r.mask = r.pattern) : r.mask = 0x000F := by
  obtain hmask | ⟨hmask, hpattern⟩ := mask_or_pattern_of_mem_opcodeTable hr
  · exact hmask
  · have hw : w &&& 0xFFFF = w := BitVec.and_allOnes
    rw [hmask, hw] at hmatch
    subst hmatch
    exact (hpattern.elim hones hzero).elim

/-- Two operation rows of the table with the same pattern are one row. -/
theorem operationRow_eq_of_pattern_eq : ∀ r ∈ opcodeTable, ∀ r' ∈ opcodeTable,
    r.mask = 0x000F → r'.mask = 0x000F → r.pattern = r'.pattern → r = r' := by
  decide

/-- No word matches two operation rows, its operation bits being the pattern of either (R45). -/
theorem operationRows_disjoint {r r' : Row} (hr : r ∈ opcodeTable) (hr' : r' ∈ opcodeTable)
    (hmask : r.mask = 0x000F) (hmask' : r'.mask = 0x000F) {w : Word}
    (hmatch : w &&& r.mask = r.pattern) (hmatch' : w &&& r'.mask = r'.pattern) : r = r' := by
  rw [hmask] at hmatch
  rw [hmask'] at hmatch'
  exact operationRow_eq_of_pattern_eq r hr r' hr' hmask hmask' (hmatch.symm.trans hmatch')

/-- The first row of a word is a row of the table that matches it. -/
theorem mem_and_matches_of_firstRow {w : Word} {r : Row} (h : firstRow w = some r) :
    r ∈ opcodeTable ∧ w &&& r.mask = r.pattern := by
  rw [firstRow] at h
  have hmatch := List.find?_some h
  exact ⟨List.mem_of_find?_eq_some h, beq_iff_eq.mp hmatch⟩

/-- The first matching row of a word that is neither whole-word value is its only one, that of the
instruction it selects. -/
theorem firstRow_of_ne {w : Word} (hones : w ≠ 0xFFFF) (hzero : w ≠ 0x0000) :
    ∃ r, firstRow w = some r ∧ r.mnemonic = (selectRow w).mnemonic := by
  obtain ⟨r, hr, hname, hmatch⟩ := rowMatch (selectRow w)
  rw [encode_selectRow] at hmatch
  obtain ⟨r', hfirst⟩ : ∃ r', firstRow w = some r' :=
    Option.isSome_iff_exists.mp (List.find?_isSome.mpr ⟨r, hr, beq_iff_eq.mpr hmatch⟩)
  obtain ⟨hr', hmatch'⟩ := mem_and_matches_of_firstRow hfirst
  have hmask := mask_eq_of_matches hones hzero hr hmatch
  have hmask' := mask_eq_of_matches hones hzero hr' hmatch'
  exact ⟨r', hfirst, operationRows_disjoint hr hr' hmask hmask' hmatch hmatch' ▸ hname⟩

namespace Machine

/-- The constraints of a word's row are broken for the reason the decoder gives. -/
theorem illegality_selectRow_eq_some_iff (c : Config) (w : Word) (r : Reason) :
    (selectRow w).illegality = some r ↔ decode c w = .invalid r := by
  by_cases hones : w = 0xFFFF
  · subst hones; exact iff_of_false nofun nofun
  by_cases hzero : w = 0x0000
  · subst hzero
    exact Option.some_inj.trans (Outcome.invalid.injEq .allZeroReserved r).symm.to_iff
  rw [selectRow_of_ne hones hzero, illegality_ofOperation, decode_eq_rowOutcome c hones hzero,
    rowOutcome]
  cases (operandsOf w).illegality (noLoadReason (extract w).operation) <;>
    simp only [reduceCtorEq, Option.some.injEq, Outcome.invalid.injEq]

end Machine
end Sys2Proof

open Sys2Proof Sys2Proof.Machine

/-- Settles O8: the two whole-word values stop at the first two rows, and any other word matches the
row of its operation and no other. -/
theorem selectRowFollowsTablePriority : Obligations.SelectRowFollowsTablePriority := by
  refine ⟨fun w => ?_, fun r hr r' hr' hmask hmask' w => operationRows_disjoint hr hr' hmask hmask'⟩
  by_cases hones : w = 0xFFFF
  · subst hones; exact ⟨_, rfl, rfl⟩
  by_cases hzero : w = 0x0000
  · subst hzero; exact ⟨_, rfl, rfl⟩
  · exact firstRow_of_ne hones hzero

/-- Settles O10: both say `some r` of the same words, those the decoder rejects for `r`. -/
theorem rowConstraintsAreTheValidator : Obligations.RowConstraintsAreTheValidator := by
  intro w
  apply Option.ext
  intro r
  rw [illegality_selectRow_eq_some_iff .default, ← validate_eq_invalid_iff_decode]
  cases validate w <;> simp only [reduceCtorEq, Verdict.invalid.injEq, Option.some.injEq]
end

