-- ==== Sys2Proof/Proofs/Counting.lean ====
section
/-! How many words the validator answers in each way (R44, R74, R100 to R115). A word is its five
fields (R53), so the words of one operation are counted as pairs of registers times load fields, and
all the words by summing over the operations. -/

namespace Sys2Proof.Machine

/-- The words of operation `op` whose registers satisfy `R` and whose load_type satisfies `L`. -/
def operationWords (op : BitVec 4) (R : BitVec 4 → BitVec 4 → Prop) (L : BitVec 2 → Prop)
    [DecidableRel R] [DecidablePred L] : Finset Word :=
  Finset.univ.filter fun w =>
    (extract w).operation = op ∧ R (extract w).source (extract w).destination ∧ L (extract w).loadType

theorem mem_operationWords {op : BitVec 4} {R : BitVec 4 → BitVec 4 → Prop} {L : BitVec 2 → Prop}
    [DecidableRel R] [DecidablePred L] {w : Word} :
    w ∈ operationWords op R L ↔ (extract w).operation = op ∧
      R (extract w).source (extract w).destination ∧ L (extract w).loadType := by
  rw [operationWords, Finset.mem_filter, and_iff_right (Finset.mem_univ w)]

/-- The fields of a word of operation `op` are free but for the conditions on them. -/
theorem card_operationWords (op : BitVec 4) (R : BitVec 4 → BitVec 4 → Prop) (L : BitVec 2 → Prop)
    [DecidableRel R] [DecidablePred L] :
    (operationWords op R L).card =
      (Finset.univ.filter fun p : BitVec 4 × BitVec 4 => R p.1 p.2).card *
        ((Finset.univ.filter L).card * (Finset.univ : Finset (BitVec 2)).card) := by
  rw [← Finset.card_product, ← Finset.card_product]
  refine Finset.card_nbij'
    (fun w => (((extract w).source, (extract w).destination),
      (extract w).loadType, (extract w).loadLength))
    (fun p => reconstitute ⟨op, p.2.1, p.2.2, p.1.1, p.1.2⟩) ?_ ?_ ?_ ?_
  · intro w hw
    obtain ⟨-, hR, hL⟩ := mem_operationWords.mp hw
    simp [hR, hL]
  · intro p hp
    have h : R p.1.1 p.1.2 ∧ L p.2.1 := by simpa using hp
    apply mem_operationWords.mpr
    rw [extract_reconstitute]
    exact ⟨rfl, h⟩
  · intro w hw
    obtain ⟨rfl, -⟩ := mem_operationWords.mp hw
    exact reconstitute_extract w
  · intro p _
    simp only [extract_reconstitute]

/-- Of the 256 pairs of registers, 16 are equal and the rest are not. -/
theorem card_registers_eq :
    (Finset.univ.filter fun p : BitVec 4 × BitVec 4 => p.1 = p.2).card = 16 := by
  rw [← Finset.univ_product_univ, ← Finset.diag_eq_filter, Finset.diag_card]
  rfl

theorem card_registers_ne :
    (Finset.univ.filter fun p : BitVec 4 × BitVec 4 => p.1 ≠ p.2).card = 240 := by
  have htotal := Finset.card_filter_add_card_filter_not (s := Finset.univ)
    fun p : BitVec 4 × BitVec 4 => p.1 = p.2
  have hpairs : (Finset.univ : Finset (BitVec 4 × BitVec 4)).card = 256 := by
    rw [← Finset.univ_product_univ, Finset.card_product]
    rfl
  rw [card_registers_eq, hpairs] at htotal
  simp only [ne_eq]
  omega

/-- The words of an operation that the validator answers in some way, counted as the finite set of
them. -/
theorem countOperationWords_eq_card {op : BitVec 4} {p : Verdict → Bool} {S : Finset Word}
    (h : ∀ w, w ∈ S ↔ (extract w).operation = op ∧ p (validate w) = true) :
    countOperationWords op p = S.card := by
  refine congrArg Finset.card (Finset.ext fun w => ?_)
  rw [h, extract_operation, Finset.mem_filter, and_iff_right (Finset.mem_univ w)]

/-- The words of all the operations are all the words. -/
theorem countWords_eq_sum (p : Verdict → Bool) :
    countWords p = ∑ op, countOperationWords op p := by
  rw [countWords, Finset.card_eq_sum_card_fiberwise (f := fun w => w.extractLsb' 0 4)
    (t := Finset.univ) fun w _ => Finset.mem_coe.mpr (Finset.mem_univ _)]
  refine Finset.sum_congr rfl fun op _ => ?_
  rw [Finset.filter_filter, countOperationWords]
  exact congrArg Finset.card (Finset.filter_congr fun w _ => and_comm)

/-- An answer of one word alone is counted once. -/
theorem countWords_eq_one {p : Verdict → Bool} {v : Word} (h : ∀ w, p (validate w) = true ↔ w = v) :
    countWords p = 1 := by
  refine Finset.card_eq_one.mpr ⟨v, Finset.ext fun w => ?_⟩
  rw [Finset.mem_filter, and_iff_right (Finset.mem_univ w), h, Finset.mem_singleton]

/-! When the validator gives each answer that is counted, said of the fields. -/

theorem isLegal_validate_iff (w : Word) :
    (validate w).isLegal = true ↔
      (extract w).source ≠ (extract w).destination ∧ (extract w).loadType ≠ 3 :=
  (isLegal_validate_iff_decode .default w).trans (exists_decode_eq_decoded_iff .default w)

theorem validate_beq_invalid_iff (w : Word) (r : Reason) :
    (validate w == .invalid r) = true ↔ decode .default w = .invalid r :=
  beq_iff_eq.trans (validate_eq_invalid_iff_decode .default w r)

/-- 240 pairs of different registers, three load types, four lengths. -/
theorem countOperationWords_isLegal (op : BitVec 4) :
    countOperationWords op Verdict.isLegal = 2880 := by
  rw [countOperationWords_eq_card (S := operationWords op (· ≠ ·) (· ≠ 3)), card_operationWords,
    card_registers_ne]
  · rfl
  · intro w
    rw [mem_operationWords, isLegal_validate_iff]

/-- 240 pairs of different registers and four lengths, in the row with that reason. -/
theorem countOperationWords_noOperationNoLoad (op : BitVec 4) :
    countOperationWords op (· == .invalid .noOperationNoLoad) = if op = 15 then 960 else 0 := by
  rw [countOperationWords_eq_card (S := operationWords op (· ≠ ·) (op = 15 ∧ · = 3)),
    card_operationWords, card_registers_ne]
  · split
    next hop => subst hop; rfl
    next hop => simp only [hop, false_and, Finset.filter_false, Finset.card_empty, zero_mul, mul_zero]
  · intro w
    rw [mem_operationWords, validate_beq_invalid_iff, decode_eq_noOperationNoLoad_iff]
    refine and_congr_right fun hop => ?_
    rw [hop]

theorem countOperationWords_operationLoadConflict (op : BitVec 4) :
    countOperationWords op (· == .invalid .operationLoadConflict) = if op = 15 then 0 else 960 := by
  rw [countOperationWords_eq_card (S := operationWords op (· ≠ ·) (op ≠ 15 ∧ · = 3)),
    card_operationWords, card_registers_ne]
  · split
    next hop => subst hop; rfl
    next hop => simp only [hop, ne_eq, not_false_iff, true_and]; rfl
  · intro w
    rw [mem_operationWords, validate_beq_invalid_iff, decode_eq_operationLoadConflict_iff]
    refine and_congr_right fun hop => ?_
    rw [hop]

/-- 16 pairs of equal registers and sixteen load fields, less the two whole-word values in their own
operations. -/
theorem countOperationWords_sourceEqualsDestination (op : BitVec 4) :
    countOperationWords op (· == .invalid .sourceEqualsDestination) =
      if op = 0 ∨ op = 15 then 255 else 256 := by
  have hall : (operationWords op (· = ·) fun _ => True).card = 256 := by
    rw [card_operationWords, card_registers_eq]
    rfl
  have hones : (0xFFFF : Word) ∈ (operationWords op (· = ·) fun _ => True) ↔ op = 15 := by
    rw [mem_operationWords]
    exact ⟨fun h => h.1.symm, fun h => ⟨h.symm, rfl, trivial⟩⟩
  have hzero : (0x0000 : Word) ∈ (operationWords op (· = ·) fun _ => True).erase 0xFFFF ↔ op = 0 := by
    rw [Finset.mem_erase, mem_operationWords]
    exact ⟨fun h => h.2.1.symm, fun h => ⟨by decide, h.symm, rfl, trivial⟩⟩
  rw [countOperationWords_eq_card
    (S := ((operationWords op (· = ·) fun _ => True).erase 0xFFFF).erase 0x0000)]
  · simp only [Finset.card_erase_eq_ite, hall, hones, hzero]
    by_cases h0 : op = 0
    · subst h0; rfl
    by_cases h15 : op = 15
    · subst h15; rfl
    · simp only [h0, h15, or_self, if_false]
  · intro w
    rw [Finset.mem_erase, Finset.mem_erase, mem_operationWords, validate_beq_invalid_iff,
      decode_eq_sourceEqualsDestination_iff]
    exact ⟨fun ⟨hzero, hones, hop, hreg, _⟩ => ⟨hop, hones, hzero, hreg⟩,
      fun ⟨hop, hones, hzero, hreg⟩ => ⟨hzero, hones, hop, hreg, trivial⟩⟩

end Sys2Proof.Machine

open Sys2Proof Sys2Proof.Machine

/-- Settles O17: the counts, answer by answer. -/
theorem operationShares : Obligations.OperationShares := fun op =>
  ⟨countOperationWords_isLegal op, countOperationWords_noOperationNoLoad op,
    countOperationWords_operationLoadConflict op, countOperationWords_sourceEqualsDestination op⟩

/-- Settles O16: the two whole-word answers are each of one word, and the other classes are the sums
of their shares of the sixteen operations. -/
theorem classSizes : Obligations.ClassSizes := by
  refine ⟨countWords_eq_one (v := 0xFFFF) fun w => ?_, countWords_eq_one (v := 0x0000) fun w => ?_,
    ?_, ?_, ?_, ?_, rfl⟩
  · rw [beq_iff_eq, validate_eq_nopSentinel_iff_decode .default, decode_eq_nopSentinel_iff]
  · rw [validate_beq_invalid_iff, decode_eq_allZeroReserved_iff]
  · simp only [countWords_eq_sum, countOperationWords_sourceEqualsDestination]
    decide
  · simp only [countWords_eq_sum, countOperationWords_noOperationNoLoad]
    decide
  · simp only [countWords_eq_sum, countOperationWords_operationLoadConflict]
    decide
  · simp only [countWords_eq_sum, countOperationWords_isLegal]
    decide

/-- Settles O15: the legal set by the kinds of words, its size among the class sizes. -/
theorem legalSetClosedForm : Obligations.LegalSetClosedForm := by
  obtain ⟨-, -, -, -, -, hlegal, -⟩ := classSizes
  refine ⟨fun c w => ?_, hlegal⟩
  rw [← extract_loadType, ← extract_source, ← extract_destination, exists_decode_eq_decoded_iff]
end

