-- ==== Sys2Proof/Proofs/NameTables.lean ====
section
/-! The name tables (R76 to R79). -/

namespace Sys2Proof.Machine

/-- The names of the thirteen indices that no parameter sets are those of the default tables. -/
theorem regName_eq_default (c : Config) {i : BitVec 4} (h12 : i ≠ 12) (h13 : i ≠ 13) (h14 : i ≠ 14) :
    regName c i = regName .default i := by
  induction i using bitVec4_cases
  case h12 => exact absurd rfl h12
  case h13 => exact absurd rfl h13
  case h14 => exact absurd rfl h14
  all_goals rfl

/-- Of the load type names only the fourth is "none". -/
theorem loadTypeName_ne_none : ∀ t : BitVec 2, t ≠ 3 → loadTypeName t ≠ "none" := by
  decide

/-- Legality reads no bit outside the mask 0xFF3F, which leaves out load_length (R35). -/
theorem exists_decode_eq_decoded_of_and_mask_eq {c : Config} {w v : Word}
    (hagree : w &&& 0xFF3F = v &&& 0xFF3F) :
    (∃ d, decode c w = .decoded d) ↔ ∃ d, decode c v = .decoded d := by
  simp only [exists_decode_eq_decoded_iff, extract_loadType, extract_source, extract_destination]
  rw [extractLsb'_eq_of_and_mask_eq (start := 4) rfl hagree,
    extractLsb'_eq_of_and_mask_eq (start := 8) rfl hagree,
    extractLsb'_eq_of_and_mask_eq (start := 12) rfl hagree]

end Sys2Proof.Machine

open Sys2Proof Sys2Proof.Machine

/-- Settles O21: a closed table, compared entry by entry. -/
theorem operationNames : Obligations.OperationNames :=
  ⟨rfl, by decide⟩

/-- Settles O22: outside the three slots the names are the default tables' own, which are compared
entry by entry. -/
theorem registerNames : Obligations.RegisterNames := by
  refine ⟨fun c => rfl, fun c i j hi12 hi13 hi14 hj12 hj13 hj14 h => ?_, rfl, rfl, rfl⟩
  rw [regName_eq_default c hi12 hi13 hi14, regName_eq_default c hj12 hj13 hj14] at h
  have hdistinct : ∀ i j : BitVec 4, i ≠ 12 → i ≠ 13 → i ≠ 14 → j ≠ 12 → j ≠ 13 → j ≠ 14 →
      regName .default i = regName .default j → i = j := by decide
  exact hdistinct i j hi12 hi13 hi14 hj12 hj13 hj14 h

/-- Settles O23: a decoded record has the fields of a legal word, whose load_type is not 3. -/
theorem loadTypeNoneIsNeverNamed : Obligations.LoadTypeNoneIsNeverNamed := by
  refine ⟨rfl, fun c w d h => ?_⟩
  obtain ⟨-, hload, rfl⟩ := eq_resolve_of_decode h
  exact ⟨hload, loadTypeName_ne_none _ hload⟩

/-- Settles O24: three closed lists, and legality reads only fields that the two words share. -/
theorem loadLengthNamesAndWidths : Obligations.LoadLengthNamesAndWidths :=
  ⟨fun _ => rfl, rfl, rfl, fun _ _ _ => exists_decode_eq_decoded_of_and_mask_eq⟩
end

