-- ==== Sys2Proof/Proofs/Texts.lean ====
section
/-! The texts: the rejections pairwise distinct and apart from every other line (R92, R93), how long the
lines are (R95), and that they are printable (R94). -/

namespace Sys2Proof.Machine

/-- The reasons, in the order in which a configuration holds their messages. -/
def allReasons : List Reason :=
  [.allZeroReserved, .sourceEqualsDestination, .noOperationNoLoad, .operationLoadConflict]

theorem mem_allReasons (r : Reason) : r ∈ allReasons := by
  cases r <;> decide

/-- A configuration's messages tell the reasons apart, by the proof it carries (U6). -/
theorem message_injective (m : Messages) : Function.Injective (message m) := by
  intro r r' h
  have hnodup : (allReasons.map (message m)).Nodup := m.distinct
  exact List.inj_on_of_nodup_map hnodup (mem_allReasons r) (mem_allReasons r') h

/-- The length of a line is that of its five names and its fixed pieces (R95). -/
theorem length_render_decoded (c : Config) (d : DecodedInstruction) :
    (render c (.decoded d)).length = d.opName.length + 1 + d.loadTypeName.length + 1 +
      d.loadLengthName.length + 16 + d.srcName.length + 6 + d.dstName.length := by
  simp only [render_decoded, String.length_append]
  rfl

/-- The line of a decoded instruction begins with its operation's name. -/
theorem opName_prefix_render_decoded (c : Config) (d : DecodedInstruction) :
    d.opName.toList <+: (render c (.decoded d)).toList := by
  simp only [render_decoded, String.toList_append, List.append_assoc]
  exact List.prefix_append _ _

/-- No operation's name begins the default messages, nor is it longer than their beginning. -/
theorem opName_not_prefix : ∀ op : BitVec 4,
    (opName op).toList.length ≤ "invalid encoding: ".toList.length ∧
      ¬ (opName op).toList <+: "invalid encoding: ".toList := by
  decide

/-- What begins the default messages begins no line of a record with an operation's name. -/
theorem not_prefix_render_decoded (c : Config) {d : DecodedInstruction} {op : BitVec 4}
    (hname : d.opName = opName op) :
    ¬ "invalid encoding: ".toList <+: (render c (.decoded d)).toList := by
  intro h
  obtain ⟨hlen, hnot⟩ := opName_not_prefix op
  have hop := opName_prefix_render_decoded c d
  rw [hname] at hop
  exact hnot (List.prefix_of_prefix_length_le hop h hlen)

/-- Four texts are refused exactly when they are not pairwise distinct. -/
theorem ofTexts_eq_none_iff (a b c d : String) :
    Messages.ofTexts a b c d = none ↔ ¬ [a, b, c, d].Nodup := by
  rw [Messages.ofTexts]
  split
  next h => exact iff_of_false nofun (not_not_intro h)
  next h => exact iff_of_true rfl h

/-! The lengths of the names, by table. -/

theorem length_opName : ∀ op : BitVec 4, 2 ≤ (opName op).length ∧ (opName op).length ≤ 18 := by
  decide

/-- The load types a decoded record can have; "none" is not among them (R78). -/
theorem length_loadTypeName : ∀ t : BitVec 2, t ≠ 3 →
    3 ≤ (loadTypeName t).length ∧ (loadTypeName t).length ≤ 9 := by
  decide

theorem length_loadLengthName_default : ∀ i : BitVec 2,
    6 ≤ (loadLengthName .default i).length ∧ (loadLengthName .default i).length ≤ 7 := by
  decide

theorem length_regName_default : ∀ i : BitVec 4,
    1 ≤ (regName .default i).length ∧ (regName .default i).length ≤ 8 := by
  decide

/-- The length of the line of a resolved record, by its fields. -/
theorem length_render_resolve (c : Config) (f : Fields) :
    (render c (.decoded (resolve c f))).length =
      (opName f.operation).length + 1 + (loadTypeName f.loadType).length + 1 +
        (loadLengthName c f.loadLength).length + 16 + (regName c f.source).length + 6 +
        (regName c f.destination).length := by
  simp only [length_render_decoded, resolve_opName, resolve_loadTypeName, resolve_loadLengthName,
    resolve_srcName, resolve_dstName]

/-- The line of a decoded word is no longer than the longest names allow (R95). -/
theorem length_render_le {c : Config} {w : Word} {lens regs : Nat}
    (hlens : ∀ i, (loadLengthName c i).length ≤ lens) (hregs : ∀ i, (regName c i).length ≤ regs)
    {d : DecodedInstruction} (h : decode c w = .decoded d) :
    (render c (.decoded d)).length ≤ 18 + 1 + 9 + 1 + lens + 16 + regs + 6 + regs := by
  obtain ⟨-, hload, rfl⟩ := eq_resolve_of_decode h
  obtain ⟨-, hop⟩ := length_opName (extract w).operation
  obtain ⟨-, htype⟩ := length_loadTypeName _ hload
  have hlen := hlens (extract w).loadLength
  have hsrc := hregs (extract w).source
  have hdst := hregs (extract w).destination
  rw [length_render_resolve]
  omega

/-- With the default names, it is no shorter than the shortest names make it (R95). -/
theorem le_length_render_default {w : Word} {d : DecodedInstruction}
    (h : decode .default w = .decoded d) : 37 ≤ (render .default (.decoded d)).length := by
  obtain ⟨-, hload, rfl⟩ := eq_resolve_of_decode h
  obtain ⟨hop, -⟩ := length_opName (extract w).operation
  obtain ⟨htype, -⟩ := length_loadTypeName _ hload
  obtain ⟨hlen, -⟩ := length_loadLengthName_default (extract w).loadLength
  obtain ⟨hsrc, -⟩ := length_regName_default (extract w).source
  obtain ⟨hdst, -⟩ := length_regName_default (extract w).destination
  rw [length_render_resolve]
  omega

/-- The strings of a configuration that reach a text. -/
def configTexts (c : Config) : List String :=
  [c.regName12, c.regName13, c.regName14, c.lenName1, c.lenName2, c.lenName3,
    c.messages.allZeroReserved, c.messages.sourceEqualsDestination, c.messages.noOperationNoLoad,
    c.messages.operationLoadConflict]

/-! The names and messages are printable: those of the fixed tables by reading them, the others where
the configuration's strings are. -/

theorem printable_opName : ∀ op : BitVec 4, printable (opName op) = true := by
  decide

theorem printable_loadTypeName : ∀ t : BitVec 2, printable (loadTypeName t) = true := by
  decide

theorem printable_loadLengthName {c : Config} (h : ∀ s ∈ configTexts c, printable s = true)
    (i : BitVec 2) : printable (loadLengthName c i) = true := by
  induction i using bitVec2_cases
  case h0 => exact (by decide : printable "1 byte" = true)
  all_goals exact h _ (by simp [configTexts, loadLengthName, loadLengthNames])

theorem printable_regName {c : Config} (h : ∀ s ∈ configTexts c, printable s = true)
    (i : BitVec 4) : printable (regName c i) = true := by
  by_cases hslot : i = 12 ∨ i = 13 ∨ i = 14
  · obtain rfl | rfl | rfl := hslot <;> exact h _ (by simp [configTexts, regName, regNames])
  · simp only [not_or] at hslot
    obtain ⟨h12, h13, h14⟩ := hslot
    have hdefault : ∀ i : BitVec 4, printable (regName .default i) = true := by decide
    rw [regName_eq_default c h12 h13 h14, hdefault]

theorem printable_message {c : Config} (h : ∀ s ∈ configTexts c, printable s = true) (r : Reason) :
    printable (message c.messages r) = true := by
  cases r <;> exact h _ (by simp [configTexts, message])

/-- The line of every resolved record is printable, piece by piece. -/
theorem printable_render_resolve {c : Config} (h : ∀ s ∈ configTexts c, printable s = true)
    (f : Fields) : printable (render c (.decoded (resolve c f))) = true := by
  have hpieces : printable " " = true ∧ printable " wide with src: " = true ∧
      printable " into " = true := by decide
  simp only [render_resolve, printable_append, printable_opName, printable_loadTypeName,
    printable_loadLengthName h, printable_regName h, hpieces, Bool.and_self]

/-- The text of every word is printable. -/
theorem printable_render_decode {c : Config} (h : ∀ s ∈ configTexts c, printable s = true)
    (w : Word) : printable (render c (decode c w)) = true := by
  cases hdec : decode c w with
  | nopSentinel => rw [render_nopSentinel]; decide
  | invalid r => exact printable_message h r
  | decoded d =>
    obtain ⟨-, -, rfl⟩ := eq_resolve_of_decode hdec
    exact printable_render_resolve h _

/-- A text has one byte a character (R94). -/
theorem length_textBytes (s : String) : (textBytes s).length = s.length := by
  rw [textBytes, List.length_map, String.length_toList]

/-- The bytes of a printable text are its characters' codes, which a byte can hold. -/
theorem mem_textBytes_bounds {s : String} (h : printable s = true) {b : Byte} (hb : b ∈ textBytes s) :
    0x20 ≤ b.toNat ∧ b.toNat ≤ 0x7E := by
  obtain ⟨ch, hch, rfl⟩ := List.mem_map.mp hb
  have hprintable := List.all_eq_true.mp h ch hch
  simp only [printableChar, Bool.and_eq_true, decide_eq_true_eq] at hprintable
  rw [BitVec.toNat_ofNat]
  omega

end Sys2Proof.Machine

open Sys2Proof Sys2Proof.Machine


/-- Settles O27: the line is cut at its fourth piece, whose sixteen characters are too many for
"NOP". -/
theorem noInstructionLineIsNOP : Obligations.NoInstructionLineIsNOP := by
  refine fun c => ⟨render_nopSentinel c, rfl, fun d => ⟨?_, fun h => ?_⟩⟩
  · refine ⟨d.opName ++ " " ++ d.loadTypeName ++ " " ++ d.loadLengthName,
      d.srcName ++ " into " ++ d.dstName, ?_⟩
    simp only [render_decoded, String.append_assoc]
  · have hlen := length_render_decoded c d
    rw [h, show "NOP".length = 3 from rfl] at hlen
    omega

/-- Settles O28: distinct messages by the configuration's own proof, the default texts by reading
them, and a decoded line begins with an operation's name. -/
theorem messagesTellReasonsApart : Obligations.MessagesTellReasonsApart := by
  refine ⟨fun c r r' h => message_injective c.messages h, rfl, rfl, rfl, rfl, fun r => ?_,
    fun c w d h => ?_⟩
  · cases r <;> decide
  · obtain ⟨-, -, rfl⟩ := eq_resolve_of_decode h
    exact not_prefix_render_decoded c (resolve_opName c (extract w))

/-- Settles O29: the list of the four texts has no duplicates exactly when no two are equal. -/
theorem equalMessagesAreRefused : Obligations.EqualMessagesAreRefused := by
  refine fun a b c d => ⟨?_, fun m h => ?_⟩
  · rw [ofTexts_eq_none_iff]
    simp only [List.nodup_cons, List.mem_cons, List.not_mem_nil, or_false, not_or, not_false_iff,
      List.nodup_nil, and_true]
    tauto
  · rw [Messages.ofTexts] at h
    split at h
    · cases h; exact ⟨rfl, rfl, rfl, rfl⟩
    · cases h

/-- Settles O30: the upper bound for the defaults is the general one with their longest names; the
closed lines are read. -/
theorem lineLengthBounds : Obligations.LineLengthBounds := by
  have hshort : render .default (decode .default 0x0115) =
      "or ram 1 byte wide with src: x into a" := by decide
  have hlong : render .default (decode .default 0xEDEE) =
      "software interrupt immediate 8 bytes wide with src: reserved into reserved" := by decide
  have hsentinel (c : Config) : (render c .nopSentinel).length = 3 := by
    rw [render_nopSentinel]; rfl
  refine ⟨fun w d h => ⟨le_length_render_default h, ?_⟩, ⟨hshort, by rw [hshort]; rfl⟩,
    ⟨hlong, by rw [hlong]; rfl⟩, hsentinel, by decide,
    fun c w lens regs hlens hregs d => length_render_le hlens hregs⟩
  exact length_render_le (lens := 7) (regs := 8) (fun i => (length_loadLengthName_default i).2)
    (fun i => (length_regName_default i).2) h

/-- Settles O31: every text is printable where the parameters are, and a printable character's code
is its byte; the bytes of 0x1023 are read. -/
theorem textIsPrintable : Obligations.TextIsPrintable := by
  refine ⟨fun c w h => ?_, by decide⟩
  exact ⟨length_textBytes _, fun b => mem_textBytes_bounds (printable_render_decode h w)⟩
end

