-- ==== Sys2Proof/Proofs/Machine.lean ====
section
/-! The machine: its rows on illegal operands (R64 to R66), what a step answers and for which cause (R10,
R121 to R124, R148), its outputs as functions of the word (R13, R19, R145), and reset. -/

namespace Sys2Proof.Machine

/-- Every operation row rejects equal register fields (R64). -/
theorem rejectsWhen_registers_eq (op : BitVec 4) :
    RejectsWhen (Instr.ofOperation op) (fun o => o.source = o.destination)
      .sourceEqualsDestination := by
  intro o s hreg
  rw [exec_ofOperation, runRow, if_pos hreg]
  rfl

/-- Every operation row rejects load_type 3 for its own reason, once the registers differ (R65,
R66). -/
theorem rejectsWhen_loadType_eq_three (op : BitVec 4) :
    RejectsWhen (Instr.ofOperation op) (fun o => o.source ≠ o.destination ∧ o.loadType = 3)
      (noLoadReason op) := by
  rintro o s ⟨hreg, hload⟩
  rw [exec_ofOperation, runRow, if_neg hreg, if_pos hload]
  rfl

/-- The parameters do not reach the kind of an outcome, its reason, its raw values or the fixed
names (U5). -/
theorem decode_config (c c' : Config) (w : Word) :
    (decode c w = .nopSentinel ↔ decode c' w = .nopSentinel) ∧
    (∀ r, decode c w = .invalid r ↔ decode c' w = .invalid r) ∧
    (∀ d, decode c w = .decoded d → ∃ d', decode c' w = .decoded d' ∧ d'.fields = d.fields ∧
      d'.opName = d.opName ∧ d'.loadTypeName = d.loadTypeName) := by
  refine ⟨?_, fun r => ?_, fun d h => ?_⟩
  · rw [decode_eq_nopSentinel_iff, decode_eq_nopSentinel_iff]
  · rw [← validate_eq_invalid_iff_decode, ← validate_eq_invalid_iff_decode]
  · obtain ⟨hreg, hload, rfl⟩ := eq_resolve_of_decode h
    exact ⟨_, decode_of_legal c' hreg hload, rfl, rfl, rfl⟩

/-- A use of the block depends on its parameters and the presented word, not on what its consumer
holds (R10). -/
theorem deliver_eq_of_config_eq_of_word_eq {s s' : State} (hconfig : s.config = s'.config)
    (hword : s.word = s'.word) (o : Outcome) : s.deliver o = s'.deliver o := by
  rw [State.deliver, State.deliver, hconfig, hword]

/-- The raw fields and the wires, as functions of the parameters and the presented word. -/
theorem rawFields_eq (s : State) : s.rawFields = extract s.word := rfl

theorem ports_eq (s : State) (u : Ports) :
    s.ports u = drivePorts s.config (render s.config (decode s.config s.word)) u
      (decode s.config s.word) := rfl

end Sys2Proof.Machine

open Sys2Proof Sys2Proof.Machine

/-- Settles O40: the list is the operation rows, each at its value. -/
theorem everyRowRejectsEqualRegisters : Obligations.EveryRowRejectsEqualRegisters := by
  intro mk hmk
  have hrow : mk ∈ List.map Instr.ofOperation [0, 1, 2, 3, 4, 5, 6, 7, 8, 9, 10, 11, 12, 13, 14, 15] :=
    hmk
  obtain ⟨op, -, rfl⟩ := List.mem_map.mp hrow
  exact rejectsWhen_registers_eq op

/-- Settles O41: the rows 0 to 14 share their load reason, and the row 15 has the other. -/
theorem everyRowRejectsLoadTypeThree : Obligations.EveryRowRejectsLoadTypeThree := by
  refine ⟨fun mk hmk => ?_, rejectsWhen_loadType_eq_three 15⟩
  have hrow : mk ∈ List.map Instr.ofOperation [0, 1, 2, 3, 4, 5, 6, 7, 8, 9, 10, 11, 12, 13, 14] :=
    hmk
  have hreason : ∀ op ∈ ([0, 1, 2, 3, 4, 5, 6, 7, 8, 9, 10, 11, 12, 13, 14] : List (BitVec 4)),
      noLoadReason op = .operationLoadConflict := by decide
  obtain ⟨op, hop, rfl⟩ := List.mem_map.mp hrow
  exact hreason op hop ▸ rejectsWhen_loadType_eq_three op

/-- Settles O43: a step is defined as the first clause says, and a legal instruction comes back from
its word. -/
theorem stepRunsThePresentedInstruction : Obligations.StepRunsThePresentedInstruction := by
  refine ⟨fun s => rfl, fun s i hi => ?_⟩
  rw [step, State.present_word, selectRow_encode hi]

/-- Settles O44: a step delivers the decoding of the word on the port, with its line. -/
theorem stepRefinesDecodeAndRender : Obligations.StepRefinesDecodeAndRender :=
  step_eq

/-- Settles O45: every instruction delivers some outcome, and every step the decoding of its word. -/
theorem theBlockAlwaysAnswers : Obligations.TheBlockAlwaysAnswers := by
  refine ⟨fun i s => ?_, fun s => ⟨_, step_eq s⟩⟩
  obtain ⟨o, hdeliver⟩ := exists_exec_eq_deliver i s
  exact ⟨_, hdeliver⟩

/-- Settles O46: a step writes the consumer's answer alone, and no output reads it; presenting leaves
no answer to be stale. -/
theorem stepAnswersWithTheCurrentOutputs : Obligations.StepAnswersWithTheCurrentOutputs := by
  refine ⟨fun s t h => ?_, fun s w a ha => by cases ha⟩
  rw [eq_deliver_of_step h]
  have hanswer := s.deliver_answer (decode s.config s.word)
  exact ⟨hanswer, fun a ha => (Option.some.inj (hanswer.symm.trans ha)).symm,
    s.deliver_outcome _, s.deliver_text _, s.deliver_rawFields _, s.deliver_ports _⟩

/-- Settles O48: the step delivers the decoding, which is each rejection for its cause alone; the two
load causes leave out the whole-word values, whose registers are equal. -/
theorem stepRejectsExactlyByCause : Obligations.StepRejectsExactlyByCause := by
  intro s
  rw [← extract_operation, ← extract_loadType, ← extract_source, ← extract_destination]
  have hwhole (P : Prop) : (extract s.word).source ≠ (extract s.word).destination ∧ P ↔
      s.word ≠ 0xFFFF ∧ s.word ≠ 0x0000 ∧
        (extract s.word).source ≠ (extract s.word).destination ∧ P := by
    rw [← and_assoc (a := s.word ≠ 0xFFFF)]
    exact (and_iff_right_of_imp fun h => ne_wholeWord_of_registers_ne h.1).symm
  exact ⟨_, _, step_eq s, s.deliver_answer _, decode_eq_allZeroReserved_iff _ _,
    decode_eq_sourceEqualsDestination_iff _ _,
    (decode_eq_noOperationNoLoad_iff _ _).trans (hwhole _),
    (decode_eq_operationLoadConflict_iff _ _).trans (hwhole _),
    fun r h => congrArg (render s.config) h⟩

/-- Settles O50: the two steps deliver the decodings of one word, and the parameters reach of a
decoding only the names they set. -/
theorem outcomeDependsOnWordAlone : Obligations.OutcomeDependsOnWordAlone := by
  constructor
  · intro s s' t t' hconfig hword h h'
    rw [eq_deliver_of_step h, eq_deliver_of_step h', hconfig, hword]
    exact deliver_eq_of_config_eq_of_word_eq hconfig hword _
  · intro s s' hword
    refine ⟨_, _, _, _, step_eq s, step_eq s', s.deliver_answer _, s'.deliver_answer _, ?_⟩
    rw [← hword]
    exact decode_config s.config s'.config s.word

/-- Settles O53: the driven wires are read off for each outcome, the reason's code for each reason. -/
theorem portsCarryTheOutcome : Obligations.PortsCarryTheOutcome := by
  intro s u hcodes hreasons
  rw [ports_eq]
  cases decode s.config s.word with
  | nopSentinel => simp [drivePorts, hcodes, rawFields_eq]
  | invalid r => cases r <;> simp [drivePorts, hcodes, hreasons, reasonCode, rawFields_eq]
  | decoded d => simp [drivePorts, hcodes, rawFields_eq]

/-- Settles O54: the outputs read the parameters and the word, and presenting writes the word and
leaves of earlier uses the parameters alone. -/
theorem outputsFollowTheInputAtOnce : Obligations.OutputsFollowTheInputAtOnce := by
  refine ⟨fun s w u => ⟨s.present_outcome w, s.present_text w, s.present_rawFields w,
    ports_eq (s.present w) u, s.present_answer w⟩, fun s t t' v v' w h h' => ?_⟩
  rw [eq_deliver_of_step h, eq_deliver_of_step h']
  simp only [State.deliver_present, State.present_present]

/-- Settles O47: no answer is held, so none is stale, and the outputs are those of 0x0000. -/
theorem resetIsUnusedAndCurrent : Obligations.ResetIsUnusedAndCurrent :=
  ⟨rfl, nofun, rfl, (decode_eq_allZeroReserved_iff _ _).mpr rfl, rfl⟩

/-- Settles O56: no part of the decoder, the renderer or the wires reads the latency, so both steps
deliver one decoding. -/
theorem latencyChangesNoAnswer : Obligations.LatencyChangesNoAnswer :=
  fun s _ _ => ⟨rfl, rfl, rfl, rfl, _, _, step_eq s, step_eq _, rfl⟩
end
